-- ==== Sys2Proof/Word.lean ====
section
/-! DEFINITION. The plainest vocabulary of the model: bytes, banks of like things, the step numbers of 00_scope 6.2
and the saturating counters of 00_scope 6.7. -/

namespace Sys2Proof

/-- One byte of a cell. -/
abbrev Byte := BitVec 8

/-- A tree address as its 16-bit field (Table 1-4). -/
abbrev Addr := BitVec 16

/-- A partition, P0 to P3. -/
abbrev Part := Fin 4

/-- A downstream link, D0 to D5. -/
abbrev Dn := Fin 6

/-- Entry `i` of a bank of like things. -/
def look {α : Type} {n : Nat} (v : Vector α n) (i : Fin n) : α := v[i]

/-- A bank with entry `i` replaced. -/
def upd {α : Type} {n : Nat} (v : Vector α n) (i : Fin n) (a : α) : Vector α n := v.set i a

/-- The bank whose entry `i` is `f i`. -/
def tab {α : Type} {n : Nat} (f : Fin n → α) : Vector α n := Vector.ofFn f

/-- The greatest number of a step, 2^40 − 2 (00_scope 6.2, R66). -/
def stepMax : Nat := 1099511627774

/-- The greatest freeze point, 2^40 − 1 (R13). -/
def freezeMax : Nat := 1099511627775

/-- Where a saturating counter stops (00_scope 6.7). -/
def counterMax : Nat := 65535

/-- The four partitions in order. -/
def allParts : List Part := [0, 1, 2, 3]

/-- The six downstream links in order. -/
def allLinks : List Dn := [0, 1, 2, 3, 4, 5]

end Sys2Proof
end

