-- ==== Sys2Proof/Syntax.lean ====
section
/-! DEFINITION. The commands of the hub: one constructor of `Instr` per row of spec/opcode_table.json, in the table's
order, and the contents of the cells that the commands bring and the hub sends (chapter 1). -/

namespace Sys2Proof

/-- The role a hub takes from its ROOTSEL strap (R163). -/
inductive Role where
  | child
  | root
deriving DecidableEq, Repr

/-- A link port of the hub: U, or one of D0 to D5 (00_scope 6.4). -/
inductive PortId where
  | d (n : Dn)
  | u
deriving DecidableEq, Repr

/-- What a signal report is about: a port's receive pair, or the REFIN pin (R24, R39). -/
inductive SignalSource where
  | pair (x : PortId)
  | refin
deriving DecidableEq, Repr

/-- A subset of the six causes of a stop (R13). -/
structure Causes where
  stall : Bool
  trigger : Bool
  control : Bool
  count : Bool
  fault : Bool
  limit : Bool
deriving DecidableEq, Repr

/-- The empty cause set. -/
def Causes.none : Causes := ⟨false, false, false, false, false, false⟩

/-- What a FAULT report gives as its cause (R16); a context takes the first five (Table 4-4). -/
inductive FaultCause where
  | stepGap
  | protocol
  | overrun
  | uplink
  | reference
  | childLink
deriving DecidableEq, Repr

/-- The contents of a FAULT report: cause, origin, last executed step or absent (R16). -/
structure FaultReport where
  cause : FaultCause
  origin : Addr
  last : Option Nat
deriving DecidableEq, Repr

/-- The contents of a HALTREQ beside its class: stamp, origin and trigger line (R16). -/
structure HaltReq where
  stamp : Nat
  origin : Addr
  line : Fin 8
deriving DecidableEq, Repr

/-- The events of Table 9-3. -/
inductive Event where
  | linkUp
  | linkDown
  | linkFailed
  | roleConflict
  | refLost
  | refLocked
  | partFault
  | alignShort
  | paceSlow
  | captureOverflow
  | noteDrop
  | counterSaturated
  | leadShort
  | restarted
  | depthLimit
  | cellLoss
deriving DecidableEq, Repr

/-- The states of a root partition record (Table 8-1). -/
inductive RootState where
  | idle
  | running
  | freezing
  | frozen
  | faulted
deriving DecidableEq, Repr

/-- A NOTE cell: the three subtypes with their fields as a hub sends them (R17, Table 1-9), or any other, of which a hub passes
on bytes 1 to 14 as they came (R17, R50). -/
inductive Note where
  | trigger (origin : Addr) (p : Part) (line : Fin 8) (step : Nat) (occurrence : Nat)
  | event (origin : Addr) (e : Event)
  | state (p : Part) (st : RootState) (causes : Causes) (freeze : Option Nat) (lastIssued : Option Nat)
  | other (body : Vector Byte 14)
deriving DecidableEq, Repr

/-- The operations of a management request (Table 1-6). -/
inductive Op where
  | read
  | write
  | pop
  | cmd
deriving DecidableEq, Repr

/-- The fields of an MREQ cell (Table 1-6), with the bits that no field uses, zero where a hub makes the cell (R1), since a
hub forwards an MREQ unchanged (R48): bits 7, 6, 4, 3 and 2 of byte 1, and bytes 13 and 14. -/
structure Request where
  op : Op
  noResponse : Bool
  dest : Addr
  tag : BitVec 16
  object : BitVec 8
  index : BitVec 8
  field : BitVec 8
  value : BitVec 32
  unusedFlags : BitVec 5 := 0#5
  unusedTail : BitVec 16 := 0#16
deriving DecidableEq, Repr

/-- The status codes of Table 1-8. -/
inductive Status where
  | ok
  | clamped
  | badObject
  | badIndex
  | badField
  | badValue
  | inUse
  | notRoot
  | badState
  | busy
  | tooLate
  | limit
  | faulted
deriving DecidableEq, Repr

/-- The fields of an MRSP cell (Table 1-7), with the bits that no field uses, zero where a hub makes the cell (R1), since a
hub passes on an MRSP unchanged (R50): bits 7 to 2 of byte 1, and byte 14. The status is its byte: one that is no code of
Table 1-8 is passed on too. -/
structure Response where
  op : Op
  src : Addr
  tag : BitVec 16
  object : BitVec 8
  index : BitVec 8
  field : BitVec 8
  value : BitVec 32
  status : Byte
  unusedFlags : BitVec 6 := 0#6
  unusedTail : Byte := 0#8
deriving DecidableEq, Repr

/-- The five run-control kinds with their fields beside the partition (R14). -/
inductive Run where
  | start (e : Nat)
  | freeze (f : Nat) (causes : Causes) (leadShort : Bool)
  | resume (r : Nat)
  | abort
  | swap (w : Nat)
deriving DecidableEq, Repr

/-- A cell as a hub sends it (Table 1-2): its kind with the fields of that kind. -/
inductive Cell where
  | idle
  | step (p : Part) (s : Nat) (age : Nat)
  | run (p : Part) (r : Run)
  | mreq (r : Request)
  | enum (addr : Addr) (depth : Nat) (lat : Nat)
  | echo (round : Fin 8)
  | echoBack (round : Fin 8)
  | hold (p : Part) (stamp : Option Nat)
  | haltreq (p : Part) (cls : Fin 4) (h : HaltReq)
  | fault (p : Part) (r : FaultReport)
  | pace (p : Part) (slow : Bool)
  | note (n : Note)
  | mrsp (r : Response)
deriving DecidableEq, Repr

/-- The seventeen defined kinds (Table 1-2). -/
inductive Kind where
  | idle
  | step
  | start
  | freeze
  | resume
  | abort
  | swap
  | mreq
  | enum
  | echo
  | echoBack
  | hold
  | haltreq
  | fault
  | pace
  | note
  | mrsp
deriving DecidableEq, Repr

/-- The rows of the table at which the agent takes a management request. -/
inductive AgentRow where
  | start
  | pause
  | continue
  | abort
  | swap
  | resetHub
  | retrain
  | flush
  | capturePop
  | triggerWrite
  | stallWrite
  | outputWrite
  | hubWrite
  | counterWrite
  | eventsWrite
  | managementWrite
deriving DecidableEq, Repr

/-- The commands, one constructor per row of spec/opcode_table.json in the table's order. A received cell names the port
it arrives on. A management row carries the request that the agent takes. In `hold`, `some s` is ON with stamp `s` and
`none` is OFF. -/
inductive Instr where
  | powerOnReset (rootsel : Bool)
  | signalPresent (src : SignalSource)
  | signalLost (src : SignalSource)
  | lossOfLock
  | settleTimerExpiry
  | trainingWindowExpiry (x : PortId)
  | roundTimeout (n : Dn)
  | enumRefreshExpiry (n : Dn)
  | idle (x : PortId)
  | badCell (x : PortId) (bytes : List Byte)
  | unknownKind (x : PortId) (kind : Byte)
  | echo (x : PortId) (round : Fin 8)
  | echoBack (x : PortId) (round : Fin 8)
  | enum (x : PortId) (addr : Addr) (depth : Nat) (lat : Nat)
  | dPortCellSlot (n : Dn)
  | uPortCellSlot
  | step (x : PortId) (p : Part) (n : Nat) (age : Nat)
  | start (x : PortId) (p : Part) (e : Nat)
  | freeze (x : PortId) (p : Part) (f : Nat) (causes : Causes) (leadShort : Bool)
  | resume (x : PortId) (p : Part) (r : Nat)
  | abort (x : PortId) (p : Part)
  | swap (x : PortId) (p : Part) (w : Nat)
  | mreq (x : PortId) (r : Request)
  | hold (x : PortId) (p : Part) (stamp : Option Nat)
  | haltreq (x : PortId) (p : Part) (cls : Fin 4) (h : HaltReq)
  | fault (x : PortId) (p : Part) (r : FaultReport)
  | pace (x : PortId) (p : Part) (slow : Bool)
  | note (x : PortId) (n : Note)
  | mrsp (x : PortId) (r : Response)
  | stepExecution (p : Part)
  | frozenStallSampling (p : Part)
  | stepIssue (p : Part)
  | rootFrozen (p : Part)
  | cmdStart (r : Request)
  | cmdPause (r : Request)
  | cmdContinue (r : Request)
  | cmdAbort (r : Request)
  | cmdSwap (r : Request)
  | cmdResetHub (r : Request)
  | cmdRetrain (r : Request)
  | cmdFlush (r : Request)
  | capturePop (r : Request)
  | triggerWrite (r : Request)
  | stallWrite (r : Request)
  | outputWrite (r : Request)
  | hubWrite (r : Request)
  | counterWrite (r : Request)
  | eventsWrite (r : Request)
  | managementWrite (r : Request)
  | levelTakenEachRp (trg : BitVec 8) (stl : BitVec 4)
  | porstAsserted
deriving DecidableEq, Repr

end Sys2Proof
end

