-- ==== Sys2Proof/Config.lean ====
section
/-! DEFINITION. What the manual leaves open and this model leaves free: constants with no body, of which nothing can be
proved but that they are what they are (log entries 3, 4 and 5). -/

namespace Sys2Proof

/-- The free choices of the device, one after another: where the manual says that either order may occur inside one
command, choice number `n` decides (R46, R59, R157, R166; log entry 3). -/
opaque Config.freeChoice : Nat → Nat

/-- The address a child whose address is unassigned would write as its own (R8 gives none; log entry 4). -/
opaque Config.unassignedAddr : Addr

/-! Where the fields of a kind that chapter 1 gives by field list stand (1.6: "their positions in the body are those of the
part's link ports and are not set out here"; log entry 5). -/

/-- Whether the one-bit mark of a kind (LEAD_SHORT, ON, SLOW, presence) is a kind flag in byte 1, or a field of the body. -/
opaque Config.markInHeader : Kind → Bool

/-- Which of the six kind flags of byte 1 it then is. -/
opaque Config.flagPlace : Kind → Nat

/-- The order in which the fields of a kind stand in the body: where each is inserted among those after it in the list. -/
opaque Config.fieldOrder : Kind → Nat → Nat

/-- How many unused bytes stand before each field of a kind. -/
opaque Config.fieldGap : Kind → Nat → Nat

end Sys2Proof
end

