-- ==== Sys2Proof/Decode.lean ====
section
/-! DEFINITION. Chapter 1's bytes: tree addresses (R8, R9), the check byte (R2), the kinds (Table 1-2), the byte layouts
of the kinds that have one (Tables 1-1, 1-5, 1-6, 1-7, 1-9), and what a received run of bytes is (R3, R5). The opcode table
gives no bits to any row, so `decodeTableWord` spells no command. -/

namespace Sys2Proof

/-! Tree addresses -/

/-- The depth field of a tree address (Table 1-4). -/
def Addr.depth (a : Addr) : Nat := (a.extractLsb' 13 3).toNat

/-- The three hops of a tree address, in order (Table 1-4). -/
def Addr.hops (a : Addr) : List Nat :=
  [(a.extractLsb' 6 3).toNat, (a.extractLsb' 3 3).toNat, (a.extractLsb' 0 3).toNat]

/-- The broadcast address: depth field 7, whatever the other bits (R8). -/
def Addr.isBroadcast (a : Addr) : Bool := a.depth == 7

/-- A tree address that names one hub: depth 0 to 3, bits 12 to 9 zero, its hops in 0..5 and the others zero (R8). -/
def Addr.namesHub (a : Addr) : Bool :=
  decide (a.depth ≤ 3) && (a.extractLsb' 9 4 == 0#4) && (a.hops.take a.depth).all (fun h => decide (h ≤ 5))
    && (a.hops.drop a.depth).all (fun h => h == 0)

/-- Validity of a tree address (R8). -/
def Addr.valid (a : Addr) : Bool := a.isBroadcast || a.namesHub

/-- The 16-bit field of the address with a depth and three hops (Table 1-4). -/
def Addr.pack (d h1 h2 h3 : Nat) : Addr := BitVec.ofNat 16 (d * 8192 + h1 * 64 + h2 * 8 + h3)

/-- The address of the hub below `a`, a hub at depth `d`, on its link `n` (R32). -/
def Addr.child (a : Addr) (d : Nat) (n : Dn) : Addr :=
  match d with
  | 0 => Addr.pack 1 n 0 0
  | 1 => Addr.pack 2 (a.hops.getD 0 0) n 0
  | _ => Addr.pack (d + 1) (a.hops.getD 0 0) (a.hops.getD 1 0) n

/-- Where an address leads from a hub (R9). -/
inductive Route where
  | here
  | below (n : Dn)
  | broadcast
  | elsewhere
deriving DecidableEq, Repr

/-- The comparison of an address with the address `own` of a hub at depth `d` (R9), broadcast apart. -/
def Addr.route (x : Addr) (own : Addr) (d : Nat) : Route :=
  if x.isBroadcast then .broadcast
  else if !x.namesHub then .elsewhere
  else if x.hops.take d != own.hops.take d then .elsewhere
  else if x.depth = d then .here
  else if d < x.depth then
    if h : x.hops.getD d 6 < 6 then .below ⟨x.hops.getD d 6, h⟩ else .elsewhere
  else .elsewhere

/-! The check byte -/

/-- The remainder after one message bit (R2): shift toward bit 7, and exclusive-OR with 0x07 when bit 7 of the remainder
and the message bit differ. -/
def crcBit (r : Byte) (b : Bool) : Byte :=
  if r.getLsbD 7 != b then (r <<< 1) ^^^ 0x07#8 else r <<< 1

/-- The remainder after one byte, bit 7 first (R2). -/
def crcByte (r : Byte) (x : Byte) : Byte :=
  [7, 6, 5, 4, 3, 2, 1, 0].foldl (fun r k => crcBit r (x.getLsbD k)) r

/-- The remainder over bytes in the order in which they are sent, from 0x00 (R2). -/
def crc (bytes : List Byte) : Byte := bytes.foldl crcByte 0x00#8

/-- A received run of sixteen bytes whose last is the remainder over the first fifteen (R3). -/
def checkPasses (bytes : List Byte) : Bool :=
  (bytes.length == 16) && (crc (bytes.take 15) == bytes.getD 15 0#8)

/-! Kinds -/

/-- KIND, byte 0 of a cell (Table 1-2). -/
def Kind.code : Kind → Byte
  | .idle => 0x00#8
  | .step => 0x01#8
  | .start => 0x02#8
  | .freeze => 0x03#8
  | .resume => 0x04#8
  | .abort => 0x05#8
  | .swap => 0x06#8
  | .mreq => 0x07#8
  | .enum => 0x08#8
  | .echo => 0x09#8
  | .echoBack => 0x0A#8
  | .hold => 0x11#8
  | .haltreq => 0x12#8
  | .fault => 0x13#8
  | .pace => 0x14#8
  | .note => 0x15#8
  | .mrsp => 0x16#8

/-- The seventeen kinds in the order of Table 1-2. -/
def Kind.all : List Kind :=
  [.idle, .step, .start, .freeze, .resume, .abort, .swap, .mreq, .enum, .echo, .echoBack, .hold, .haltreq, .fault,
    .pace, .note, .mrsp]

/-- The kind of a KIND byte, none for an undefined one (R5). -/
def Kind.ofCode (b : Byte) : Option Kind := Kind.all.find? (fun k => k.code == b)

/-- The direction of a kind (Table 1-2). -/
inductive Direction where
  | both
  | down
  | up
deriving DecidableEq, Repr

/-- The direction in which a kind travels (Table 1-2). -/
def Kind.direction : Kind → Direction
  | .idle => .both
  | .step | .start | .freeze | .resume | .abort | .swap | .mreq | .enum | .echo => .down
  | .echoBack | .hold | .haltreq | .fault | .pace | .note | .mrsp => .up

/-- The kind of a cell. -/
def Cell.kind : Cell → Kind
  | .idle => .idle
  | .step .. => .step
  | .run _ (.start _) => .start
  | .run _ (.freeze ..) => .freeze
  | .run _ (.resume _) => .resume
  | .run _ .abort => .abort
  | .run _ (.swap _) => .swap
  | .mreq _ => .mreq
  | .enum .. => .enum
  | .echo _ => .echo
  | .echoBack _ => .echoBack
  | .hold .. => .hold
  | .haltreq .. => .haltreq
  | .fault .. => .fault
  | .pace .. => .pace
  | .note _ => .note
  | .mrsp _ => .mrsp

/-- PART of a cell, zero for a kind without a partition (R1, Table 1-2). -/
def Cell.part : Cell → Nat
  | .step p _ _ | .run p _ | .hold p _ | .haltreq p _ _ | .fault p _ | .pace p _ => p
  | _ => 0

/-! Small codes -/

/-- The code of an event (Table 9-3). -/
def Event.code : Event → Fin 16
  | .linkUp => 0
  | .linkDown => 1
  | .linkFailed => 2
  | .roleConflict => 3
  | .refLost => 4
  | .refLocked => 5
  | .partFault => 6
  | .alignShort => 7
  | .paceSlow => 8
  | .captureOverflow => 9
  | .noteDrop => 10
  | .counterSaturated => 11
  | .leadShort => 12
  | .restarted => 13
  | .depthLimit => 14
  | .cellLoss => 15

/-- The events by code (Table 9-3). -/
def Event.all : List Event :=
  [.linkUp, .linkDown, .linkFailed, .roleConflict, .refLost, .refLocked, .partFault, .alignShort, .paceSlow,
    .captureOverflow, .noteDrop, .counterSaturated, .leadShort, .restarted, .depthLimit, .cellLoss]

/-- The code of an operation (Table 1-6). -/
def Op.code : Op → Nat
  | .read => 0
  | .write => 1
  | .pop => 2
  | .cmd => 3

/-- The operation of a code of two bits (Table 1-6). -/
def Op.ofCode (n : Nat) : Op :=
  match n with
  | 0 => .read
  | 1 => .write
  | 2 => .pop
  | _ => .cmd

/-- The code of a status (Table 1-8). -/
def Status.code : Status → Nat
  | .ok => 0
  | .clamped => 1
  | .badObject => 2
  | .badIndex => 3
  | .badField => 4
  | .badValue => 5
  | .inUse => 6
  | .notRoot => 7
  | .badState => 8
  | .busy => 9
  | .tooLate => 10
  | .limit => 11
  | .faulted => 12

/-- The code of a root record's state (Table 1-9, Table 9-1). -/
def RootState.code : RootState → Nat
  | .idle => 0
  | .running => 2
  | .freezing => 3
  | .frozen => 4
  | .faulted => 5

/-- The root record's state of a code (Table 1-9). -/
def RootState.ofCode (n : Nat) : Option RootState :=
  match n with
  | 0 => some .idle
  | 2 => some .running
  | 3 => some .freezing
  | 4 => some .frozen
  | 5 => some .faulted
  | _ => none

/-- The sum of weights a cause set reads as (Table 1-9, Table 9-1). -/
def Causes.code (c : Causes) : Nat :=
  (if c.stall then 1 else 0) + (if c.trigger then 2 else 0) + (if c.control then 4 else 0) + (if c.count then 8 else 0)
    + (if c.fault then 16 else 0) + (if c.limit then 32 else 0)

/-- The cause set of a sum of weights (Table 1-9). -/
def Causes.ofCode (n : Nat) : Causes :=
  ⟨n.testBit 0, n.testBit 1, n.testBit 2, n.testBit 3, n.testBit 4, n.testBit 5⟩

/-- The code of a fault cause (Table 9-1). -/
def FaultCause.code : FaultCause → Nat
  | .stepGap => 0
  | .protocol => 1
  | .overrun => 2
  | .uplink => 3
  | .reference => 4
  | .childLink => 5

/-! Byte layouts -/

/-- The low `k` bytes of a number, most significant byte first (R1). -/
def beBytes : Nat → Nat → List Byte
  | 0, _ => []
  | k + 1, v => BitVec.ofNat 8 (v / 256 ^ k) :: beBytes k v

/-- The number that bytes give, most significant byte first (R1). -/
def beNat (bytes : List Byte) : Nat := bytes.foldl (fun n b => n * 256 + b.toNat) 0

/-- `n` zero bytes: unused fields are sent as zero (R1). -/
def zeros (n : Nat) : List Byte := List.replicate n 0#8

/-- Bytes 1 to 14 of a NOTE cell (Table 1-9), as they came in a NOTE that is kept as its bytes (R17). -/
def Note.body : Note → List Byte
  | .trigger o p l s occ =>
    [0x00#8, 0x00#8] ++ beBytes 2 o.toNat ++ beBytes 1 (p.val * 64 + l.val) ++ beBytes 5 s ++ beBytes 2 occ ++ zeros 2
  | .event o e => [0x00#8, 0x01#8] ++ beBytes 2 o.toNat ++ beBytes 1 e.code.val ++ zeros 9
  | .state p st cs f li =>
    beBytes 1 ((if f.isSome then 2 else 0) + (if li.isSome then 1 else 0)) ++ [0x02#8]
      ++ beBytes 1 (p.val * 64 + st.code) ++ beBytes 1 cs.code ++ beBytes 5 (f.getD 0) ++ beBytes 5 (li.getD 0)
  | .other body => body.toList

/-- Bytes 1 to 14 of an MREQ cell (Table 1-6), the unused bits included. -/
def Request.body (r : Request) : List Byte :=
  beBytes 1
      (r.unusedFlags.toNat / 8 * 64 + (if r.noResponse then 32 else 0) + r.unusedFlags.toNat % 8 * 4 + r.op.code)
    ++ beBytes 2 r.dest.toNat ++ beBytes 2 r.tag.toNat ++ [r.object, r.index, r.field] ++ beBytes 4 r.value.toNat
    ++ beBytes 2 r.unusedTail.toNat

/-- Bytes 1 to 14 of an MRSP cell (Table 1-7), the unused bits included. -/
def Response.body (r : Response) : List Byte :=
  beBytes 1 (r.unusedFlags.toNat * 4 + r.op.code) ++ beBytes 2 r.src.toNat ++ beBytes 2 r.tag.toNat
    ++ [r.object, r.index, r.field] ++ beBytes 4 r.value.toNat ++ [r.status, r.unusedTail]

/-! The kinds that chapter 1 gives by field list: the fields are those of R14 to R16, their places are free (log entry 5), and
all that no field uses is zero (R1). -/

/-- A field that stands in the body: how many bytes hold it, and its value, in their low-order bits (R1). -/
structure Field where
  bytes : Nat
  value : Nat
deriving DecidableEq, Repr

/-- The one-bit mark of a cell whose kind has one: LEAD_SHORT of a FREEZE (R14), ON of a HOLD, SLOW of a PACE (R16), and
presence of the last step of a FAULT (R13). -/
def Cell.mark : Cell → Option Bool
  | .run _ (.freeze _ _ leadShort) => some leadShort
  | .hold _ stamp => some stamp.isSome
  | .fault _ r => some r.last.isSome
  | .pace _ slow => some slow
  | _ => none

/-- The kind flags of a field-list kind: its mark where that is a flag, and zero beside it (R1). -/
def Cell.flags (c : Cell) : Nat :=
  if c.mark = some true ∧ Config.markInHeader c.kind = true then 2 ^ (Config.flagPlace c.kind % 6) else 0

/-- The mark of a cell as a field of the body, where it is no flag. -/
def Cell.markField (c : Cell) : List Field :=
  match c.mark with
  | some b => if Config.markInHeader c.kind then [] else [⟨1, b.toNat⟩]
  | none => []

/-- The fields of a field-list kind that stand in the body, in the order of its list (R13 to R16). DEDUCED (log entry 5): each
has bytes of its own, as few as hold it; causes and fault causes have the codes of Tables 1-9 and 9-1. -/
def Cell.fields (c : Cell) : List Field :=
  (match c with
    | .run _ (.start e) => [⟨5, e⟩]
    | .run _ (.freeze f causes _) => [⟨5, f⟩, ⟨1, causes.code⟩]
    | .run _ (.resume r) => [⟨5, r⟩]
    | .run _ (.swap w) => [⟨5, w⟩]
    | .enum addr depth lat => [⟨2, addr.toNat⟩, ⟨1, depth⟩, ⟨2, lat⟩]
    | .echo round | .echoBack round => [⟨1, round.val⟩]
    | .hold _ stamp => [⟨5, stamp.getD 0⟩]
    | .haltreq _ cls h => [⟨1, cls.val⟩, ⟨5, h.stamp⟩, ⟨2, h.origin.toNat⟩, ⟨1, h.line.val⟩]
    | .fault _ r => [⟨1, r.cause.code⟩, ⟨2, r.origin.toNat⟩, ⟨5, r.last.getD 0⟩]
    | _ => []) ++ c.markField

/-- The fields of a kind in the order in which they stand in the body. -/
def inOrder (k : Kind) : List Field → List Field
  | [] => []
  | x :: l => (inOrder k l).insertIdx (Config.fieldOrder k l.length % (l.length + 1)) x

/-- Fields one after another with `spare` zero bytes before, between and after them, each most significant byte first (R1). -/
def laidOut (k : Kind) : Nat → List Field → List Byte
  | spare, [] => zeros spare
  | spare, x :: l =>
    let gap := Config.fieldGap k l.length % (spare + 1)
    zeros gap ++ beBytes x.bytes x.value ++ laidOut k (spare - gap) l

/-- Bytes 2 to 14 of a field-list kind. -/
def Cell.fieldBody (c : Cell) : List Byte := laidOut c.kind (13 - (c.fields.map Field.bytes).sum) (inOrder c.kind c.fields)

/-- Bytes 0 to 14 of a cell (Table 1-1). An ABORT has no field beside its partition (R14), so the rest is zero (R1). The
kinds that chapter 1 gives by field list have their fields where `Config` places them (log entry 5). -/
def Cell.head (c : Cell) : List Byte :=
  c.kind.code ::
    match c with
    | .idle => zeros 14
    | .step p s age => beBytes 1 (p.val * 64) ++ beBytes 5 s ++ beBytes 2 age ++ zeros 6
    | .mreq r => r.body
    | .note n => n.body
    | .mrsp r => r.body
    | .run p .abort => beBytes 1 (p.val * 64) ++ zeros 13
    | c => BitVec.ofNat 8 (c.part * 64 + c.flags) :: c.fieldBody

/-- The sixteen bytes of a cell on the link, CHECK last (R2). -/
def Cell.bytes (c : Cell) : List Byte := c.head ++ [crc c.head]

/-- What a port makes of received bytes before its state is looked at (R3, R5). `unlaid` is a good cell of a defined kind
whose fields chapter 1 does not place. -/
inductive Received where
  | bad
  | unknown (kind : Byte)
  | cell (c : Cell)
  | unlaid (k : Kind)
deriving DecidableEq, Repr

/-- The field of bytes `i` to `i + n - 1`. -/
def fieldOf (bytes : List Byte) (i n : Nat) : Nat := beNat ((bytes.drop i).take n)

/-- The NOTE of sixteen bytes by Table 1-9, unused fields ignored (R1); none for a subtype, or a state code, that the table
does not define. -/
def Note.defined (bytes : List Byte) : Option Note :=
  let origin := BitVec.ofNat 16 (fieldOf bytes 3 2)
  match fieldOf bytes 2 1 with
  | 0 =>
    some (.trigger origin (Fin.ofNat 4 (fieldOf bytes 5 1 / 64)) (Fin.ofNat 8 (fieldOf bytes 5 1)) (fieldOf bytes 6 5)
      (fieldOf bytes 11 2))
  | 1 => (Event.all[fieldOf bytes 5 1 % 16]?).map (Note.event origin)
  | 2 =>
    (RootState.ofCode (fieldOf bytes 3 1 % 8)).map fun st =>
      .state (Fin.ofNat 4 (fieldOf bytes 3 1 / 64)) st (Causes.ofCode (fieldOf bytes 4 1))
        (if (fieldOf bytes 1 1).testBit 1 then some (fieldOf bytes 5 5) else none)
        (if (fieldOf bytes 1 1).testBit 0 then some (fieldOf bytes 10 5) else none)
  | _ => none

/-- Bytes 1 to 14 of sixteen. -/
def bodyOf (bytes : List Byte) : Vector Byte 14 := tab fun i => bytes.getD (i.val + 1) 0#8

/-- The NOTE of sixteen bytes. R17 and R50 have a hub pass on every NOTE unchanged: one whose bytes are not those that
Table 1-9 gives its fields, unused ones zero, is kept as its bytes (DEDUCED, log entry 28). -/
def Note.ofBytes (bytes : List Byte) : Note :=
  match Note.defined bytes with
  | some n => if n.body = (bodyOf bytes).toList then n else .other (bodyOf bytes)
  | none => .other (bodyOf bytes)

/-- The MREQ of sixteen bytes (Table 1-6). DEDUCED (log entry 28): the unused bits are kept, for a request that is sent on
(R48); the agent looks at none of them (R1). -/
def Request.ofBytes (bytes : List Byte) : Request where
  op := Op.ofCode (fieldOf bytes 1 1 % 4)
  noResponse := (fieldOf bytes 1 1).testBit 5
  dest := BitVec.ofNat 16 (fieldOf bytes 2 2)
  tag := BitVec.ofNat 16 (fieldOf bytes 4 2)
  object := BitVec.ofNat 8 (fieldOf bytes 6 1)
  index := BitVec.ofNat 8 (fieldOf bytes 7 1)
  field := BitVec.ofNat 8 (fieldOf bytes 8 1)
  value := BitVec.ofNat 32 (fieldOf bytes 9 4)
  unusedFlags := BitVec.ofNat 5 (fieldOf bytes 1 1 / 64 * 8 + fieldOf bytes 1 1 / 4 % 8)
  unusedTail := BitVec.ofNat 16 (fieldOf bytes 13 2)

/-- The MRSP of sixteen bytes (Table 1-7), the unused bits kept, since it is sent on unchanged (R50; DEDUCED, log entry 28). -/
def Response.ofBytes (bytes : List Byte) : Response where
  op := Op.ofCode (fieldOf bytes 1 1 % 4)
  src := BitVec.ofNat 16 (fieldOf bytes 2 2)
  tag := BitVec.ofNat 16 (fieldOf bytes 4 2)
  object := BitVec.ofNat 8 (fieldOf bytes 6 1)
  index := BitVec.ofNat 8 (fieldOf bytes 7 1)
  field := BitVec.ofNat 8 (fieldOf bytes 8 1)
  value := BitVec.ofNat 32 (fieldOf bytes 9 4)
  status := BitVec.ofNat 8 (fieldOf bytes 13 1)
  unusedFlags := BitVec.ofNat 6 (fieldOf bytes 1 1 / 4)
  unusedTail := BitVec.ofNat 8 (fieldOf bytes 14 1)

/-- What received bytes are: a bad cell, a good cell of an undefined kind, or a good cell (R3, R5, R1). The fields of a
STEP are read in their low-order bits: 40 of STEPNO, 12 of AGE (Table 1-5). DEDUCED (log entry 28): the unused bits of a
STEP or an ABORT are dropped, so the copies that R45 makes of it carry zeros there (R1). -/
def Received.ofBytes (bytes : List Byte) : Received :=
  if !checkPasses bytes then .bad
  else
    match Kind.ofCode (bytes.getD 0 0#8) with
    | none => .unknown (bytes.getD 0 0#8)
    | some .idle => .cell .idle
    | some .step => .cell (.step (Fin.ofNat 4 (fieldOf bytes 1 1 / 64)) (fieldOf bytes 2 5) (fieldOf bytes 7 2 % 4096))
    | some .abort => .cell (.run (Fin.ofNat 4 (fieldOf bytes 1 1 / 64)) .abort)
    | some .mreq => .cell (.mreq (Request.ofBytes bytes))
    | some .note => .cell (.note (Note.ofBytes bytes))
    | some .mrsp => .cell (.mrsp (Response.ofBytes bytes))
    | some k => .unlaid k

/-- The command that the arrival of sixteen bytes at a port is, for the kinds whose bytes chapter 1 sets out. -/
def Instr.ofArrival (x : PortId) (bytes : List Byte) : Option Instr :=
  match Received.ofBytes bytes with
  | .bad => some (.badCell x bytes)
  | .unknown k => some (.unknownKind x k)
  | .cell .idle => some (.idle x)
  | .cell (.step p s age) => some (.step x p s age)
  | .cell (.run p .abort) => some (.abort x p)
  | .cell (.mreq r) => some (.mreq x r)
  | .cell (.note n) => some (.note x n)
  | .cell (.mrsp r) => some (.mrsp x r)
  | .cell _ => none
  | .unlaid _ => none

/-- The row of the table whose event is the taking of a request, by its operation, object and command code (Tables 9-1 and
9-2). The table gives a READ no row, nor a request that steps 1 to 4 of R160 refuse outright: MANAGEMENT_WRITE stands for
every request no other row names (log entry 7). -/
def Request.row (r : Request) : AgentRow :=
  match r.op, r.object.toNat, r.field.toNat with
  | .write, 0x02, _ => .hubWrite
  | .write, 0x08, _ => .outputWrite
  | .write, 0x09, _ => .triggerWrite
  | .write, 0x0A, _ => .stallWrite
  | .write, 0x0C, _ => .counterWrite
  | .write, 0x0D, _ => .eventsWrite
  | .pop, 0x0B, _ => .capturePop
  | .cmd, 0x02, 1 => .resetHub
  | .cmd, 0x03, 1 => .retrain
  | .cmd, 0x03, 2 => .flush
  | .cmd, 0x0E, 1 => .start
  | .cmd, 0x0E, 2 => .pause
  | .cmd, 0x0E, 3 => .continue
  | .cmd, 0x0E, 4 => .abort
  | .cmd, 0x0E, 5 => .swap
  | _, _, _ => .managementWrite

/-- The command a word of the opcode table spells: none, since the table gives no row any bits (98_reader.md:
n_rows_with_fixed 0, n_rows_with_fields 0). -/
def decodeTableWord (_nbits _w : Nat) : Option Instr := none

end Sys2Proof
end

