-- ==== Sys2Proof/WellFormed.lean ====
section
/-! DEFINITION. The commands whose operands a cell, a line or a request can carry: numbers within their fields (R13 to R17,
Tables 1-5 and 1-9), a bad cell that fails CHECK (R3), an unknown kind that is no kind of Table 1-2 (R5), and a management
row whose request is of that row. -/

namespace Sys2Proof

/-- A number that a 40-bit step-number field carries (R13). -/
abbrev StepField (n : Nat) : Prop := n ≤ freezeMax

/-- A step number that may be absent, within its field (R13). -/
abbrev StepFieldOpt (o : Option Nat) : Prop := StepField (o.getD 0)

/-- The fields of a NOTE within the ranges of Table 1-9; a NOTE kept as its bytes is none that the table lays out so. -/
abbrev Note.WellFormed : Note → Prop
  | .trigger _ _ _ s occ => s ≤ stepMax ∧ 1 ≤ occ ∧ occ ≤ counterMax
  | .event _ _ => True
  | .state _ _ _ f li => StepFieldOpt f ∧ li.getD 0 ≤ stepMax
  | .other body => ∀ n ∈ Note.defined (Kind.note.code :: body.toList), n.body ≠ body.toList

/-- A command whose operands fit their fields. An ENUM is not bounded: a port judges its fields itself (R33). -/
abbrev Instr.WellFormed : Instr → Prop
  | .badCell _ bytes => checkPasses bytes = false
  | .unknownKind _ k => Kind.ofCode k = none
  | .step _ _ n age => StepField n ∧ age ≤ 4095
  | .start _ _ e => StepField e
  | .freeze _ _ f _ _ => StepField f
  | .resume _ _ r => StepField r
  | .swap _ _ w => StepField w
  | .hold _ _ stamp => StepFieldOpt stamp
  | .haltreq _ _ _ h => StepField h.stamp
  | .fault _ _ r => StepFieldOpt r.last
  | .note _ n => n.WellFormed
  | .cmdStart r => r.row = .start
  | .cmdPause r => r.row = .pause
  | .cmdContinue r => r.row = .continue
  | .cmdAbort r => r.row = .abort
  | .cmdSwap r => r.row = .swap
  | .cmdResetHub r => r.row = .resetHub
  | .cmdRetrain r => r.row = .retrain
  | .cmdFlush r => r.row = .flush
  | .capturePop r => r.row = .capturePop
  | .triggerWrite r => r.row = .triggerWrite
  | .stallWrite r => r.row = .stallWrite
  | .outputWrite r => r.row = .outputWrite
  | .hubWrite r => r.row = .hubWrite
  | .counterWrite r => r.row = .counterWrite
  | .eventsWrite r => r.row = .eventsWrite
  | .managementWrite r => r.row = .managementWrite
  | .powerOnReset _ | .signalPresent _ | .signalLost _ | .lossOfLock | .settleTimerExpiry | .trainingWindowExpiry _
  | .roundTimeout _ | .enumRefreshExpiry _ | .idle _ | .echo _ _ | .echoBack _ _ | .enum _ _ _ _ | .dPortCellSlot _
  | .uPortCellSlot | .abort _ _ | .mreq _ _ | .pace _ _ _ | .mrsp _ _ | .stepExecution _ | .frozenStallSampling _
  | .stepIssue _ | .rootFrozen _ | .levelTakenEachRp _ _ | .porstAsserted => True

end Sys2Proof
end

