-- ==== Sys2Proof/Machine/State.lean ====
section
/-! DEFINITION. Every piece of state the manual gives one hub, block by block (Table 0-4), with its value after power-on
reset; the queue of commands that wait; and the model's own bookkeeping (`ModelOwn`). -/

namespace Sys2Proof.Machine

open Sys2Proof

/-- Why a step may fault: never. The manual gives every row of the table an effect (NOTES.md, Stops). -/
inductive Fault where
deriving DecidableEq, Repr

/-- Why a step may be refused. -/
inductive Refusal where
  /-- Raised by `exec` alone, for a row with no meaning yet; no row is in that case. Safe. -/
  | notModelled (mnemonic : String)
deriving DecidableEq, Repr

/-! Link ports and hub position (chapter 2) -/

/-- The states of Table 2-2; U of a child has no MEASURING, a D port no WAIT_ENUM, the controller port neither. -/
inductive PortState where
  | down
  | training
  | measuring
  | waitEnum
  | up
  | failed
deriving DecidableEq, Repr

/-- One port: its record (Table 2-1), its counters by their index k (R167), its signal detector, its training work (R21),
the first RP at which its next cell slot may begin (R19) and the cell of its present slot. -/
structure Port where
  state : PortState
  attempts : Nat
  badRun : Nat
  linkLat : Nat
  pathLat : Nat
  counters : Vector Nat 8
  signal : Bool
  trainRun : Nat
  windowFrom : Nat
  nextSlot : Nat
  sent : Option Cell
deriving DecidableEq, Repr

/-- A measuring sequence (R28): the round, the departure time of its ECHO once sent, the round-trip times so far. -/
structure Measure where
  round : Fin 8
  sentAt : Option Nat
  rtts : List Nat
deriving DecidableEq, Repr

/-- What a D port keeps beside its record: the measuring sequence, the RP its ENUM refresh interval counts from, its
waiting ENUM, and the address of its child as its latest ENUM carries it (R28, R32, R135). -/
structure DLink where
  measure : Measure
  refreshFrom : Nat
  enumWaiting : Bool
  child : Addr
deriving DecidableEq, Repr

/-- An ECHO_BACK that U owes: the RP at which it leaves and the round it answers (R29). -/
structure EchoDue where
  due : Nat
  round : Fin 8
deriving DecidableEq, Repr

/-- The seven ports and the hub position (Tables 2-1 and 2-3), the ECHO_BACKs owed on U, and the arrival time of the
latest cell on U, from which U's slots are counted (R29). -/
structure LinkPorts where
  dports : Vector Port 6
  uport : Port
  dlinks : Vector DLink 6
  echoes : List EchoDue
  uArrival : Option Nat
  address : Option Addr
  depth : Option Nat
  pathLat : Nat
deriving DecidableEq, Repr

/-! Reference unit (2.8) -/

/-- The states of Table 2-8. -/
inductive RefState where
  | unlocked
  | settling
  | locked
deriving DecidableEq, Repr

/-- The reference unit: state, settle timer (Table 2-8) and the presence of a signal on REFIN. -/
structure RefUnit where
  state : RefState
  timer : Nat
  refin : Bool
deriving DecidableEq, Repr

/-! Cell forwarder (chapter 3) -/

/-- A route table entry (Table 3-2); bit n of the mask stands for Dn (R43). -/
structure RouteEntry where
  mask : BitVec 6
  isLocal : Bool
deriving DecidableEq, Repr

/-- A run-control cell waiting in an urgent queue. -/
structure RunCell where
  part : Part
  run : Run
deriving DecidableEq, Repr

/-- A STEP copy waiting in a step queue, with the AGE it came with and its arrival time (R45). -/
structure StepCopy where
  part : Part
  step : Nat
  age : Nat
  arrival : Nat
deriving DecidableEq, Repr

/-- The egress queues of one downstream link (Table 3-3) and its backed-up report (R54). -/
structure Egress where
  urgent : List RunCell
  steps : List StepCopy
  mgmt : List Request
  backedUp : Bool
deriving DecidableEq, Repr

/-- The contents of a HOLD slot. -/
inductive HoldMsg where
  | on (stamp : Nat)
  | off
deriving DecidableEq, Repr

/-- The seven summary slots of one partition, each empty or pending, and the HOLD reported state, true for ON
(Table 3-5). -/
structure Slots where
  fault : Option FaultReport
  haltreq : Vector (Option HaltReq) 4
  hold : Option HoldMsg
  reported : Bool
  pace : Option Bool
deriving DecidableEq, Repr

/-- The forwarder's stores. -/
structure Forwarder where
  routes : Vector RouteEntry 4
  egress : Vector Egress 6
  slots : Vector Slots 4
  lastServed : Part
  noteQ : List Note
  respQ : List Response
deriving DecidableEq, Repr

/-! Partition step engine (chapter 4) -/

/-- The context states of Table 4-2. -/
inductive CtxState where
  | idle
  | armed
  | running
  | freezing
  | frozen
  | faulted
deriving DecidableEq, Repr

/-- A hold queue entry (R71). -/
structure HoldEntry where
  step : Nat
  expiry : Nat
deriving DecidableEq, Repr

/-- A partition context (Table 4-1). `true` is SLOW in the pace fields and HIGH in the previous-sample flags. `frozenMark`
is the RP of the latest event that took the context to FROZEN or sampled it there (R127). -/
structure Context where
  state : CtxState
  epoch : Nat
  expected : Nat
  last : Option Nat
  freeze : Option Nat
  causes : Causes
  fault : Option FaultCause
  second : Nat
  queue : List HoldEntry
  queueSlow : Bool
  childSlow : Vector Bool 6
  pace : Bool
  prev : Vector (Option Bool) 8
  frozenMark : Nat
deriving DecidableEq, Repr

/-! Domain generator (chapter 5) -/

/-- The modes of a domain entry (Table 5-2). -/
inductive EntryMode where
  | clock
  | heldLow
  | heldHigh
deriving DecidableEq, Repr

/-- A domain entry (Table 5-2); `anchorSwap` is the anchor SWAP. -/
structure DomainEntry where
  mode : EntryMode
  period : Nat
  phase : Nat
  duty : Nat
  anchorSwap : Bool
deriving DecidableEq, Repr

/-- The domain state of one partition (Table 5-1): active bank (true is bank 1), swap epoch, pending swap record. -/
structure DomainPart where
  bank : Bool
  swapEpoch : Option Nat
  swaps : List Nat
deriving DecidableEq, Repr

/-- An output line record (Table 5-5), and the level its pin shows: of the levels that the executions of one RP give the line
in turn only the last appears (R99; log entry 32). Levels are true for HIGH. -/
structure OutLine where
  domain : Bool
  slot : Fin 16
  invert : Bool
  rest : Bool
  level : Bool
  pin : Bool
deriving DecidableEq, Repr

/-- The domain generator (Table 5-1). Entry 16 × bank + slot is the entry of a slot in a bank (R90). -/
structure DomainGen where
  slots : Vector Part 16
  entries : Vector DomainEntry 32
  parts : Vector DomainPart 4
  outs : Vector OutLine 16
deriving DecidableEq, Repr

/-! Trigger unit (chapter 6) -/

/-- The modes of a trigger line (Table 6-1). -/
inductive TrigMode where
  | rise
  | fall
  | high
  | low
deriving DecidableEq, Repr

/-- A trigger line record (Table 6-1), its previous sample apart: the context holds it (R111). -/
structure TrigLine where
  enable : Bool
  part : Part
  mode : TrigMode
  target : Nat
  repeats : Bool
  halts : Bool
  cls : Fin 4
  count : Nat
  fired : Nat
deriving DecidableEq, Repr

/-- The three kept levels of a line, oldest first (R113). -/
structure Kept where
  l3 : Bool
  l2 : Bool
  l1 : Bool
deriving DecidableEq, Repr

/-- A capture record (Table 6-3). -/
structure Capture where
  line : Fin 8
  part : Part
  step : Nat
  occurrence : Nat
deriving DecidableEq, Repr

/-- The trigger unit: line records, kept levels, capture table with the oldest record first. -/
structure TriggerUnit where
  lines : Vector TrigLine 8
  kept : Vector Kept 8
  captures : List Capture
deriving DecidableEq, Repr

/-! Hold unit (chapter 7) -/

/-- A stall line record (Table 7-1), its active and stamp fields apart: the hold source table holds them (R125).
`activeLow` is polarity LOW. -/
structure StallLine where
  enable : Bool
  part : Part
  activeLow : Bool
  qualified : Bool
deriving DecidableEq, Repr

/-- The hold source table of one partition and its announced stamp (R129). An active entry is `some` of its stamp. -/
structure HoldTable where
  entries : Vector (Option Nat) 10
  announced : Option Nat
deriving DecidableEq, Repr

/-- The hold unit. -/
structure HoldUnit where
  lines : Vector StallLine 4
  kept : Vector Kept 4
  tables : Vector HoldTable 4
deriving DecidableEq, Repr

/-! Root controller (chapter 8) -/

/-- The halt request a record remembers: origin and line (Table 8-1). -/
structure HaltOrigin where
  origin : Addr
  line : Fin 8
deriving DecidableEq, Repr

/-- A root partition record (Table 8-1). -/
structure RootRec where
  state : RootState
  epoch : Nat
  lastIssued : Option Nat
  lastIssueTime : Option Nat
  freeze : Option Nat
  causes : Causes
  pendingCount : Option Nat
  pendingSwap : Option Nat
  fault : Option FaultReport
  haltOrigin : Option HaltOrigin
  count : Nat
  swapStep : Nat
  lead : Nat
  haltMask : BitVec 4
  period : Nat
  acc : Nat
  nextIssue : Option Nat
  slow : Bool
deriving DecidableEq, Repr

/-! Management agent (chapter 9) -/

/-- The two reset causes (R163). -/
inductive ResetCause where
  | powerOn
  | hubReset
deriving DecidableEq, Repr

/-- The HUB settings (R164); `keepNewest` is the capture policy KEEP_NEWEST. -/
structure HubSettings where
  budget : Nat
  keepNewest : Bool
  high : Nat
  low : Nat
deriving DecidableEq, Repr

/-- The management agent: request queue and the RP of its last taking (R159), event latches and enables by code (R165),
reset cause, HUB settings, and the three hub counters (R167). -/
structure Agent where
  queue : List Request
  lastTake : Option Nat
  latches : BitVec 16
  enables : BitVec 16
  resetCause : ResetCause
  hub : HubSettings
  counters : Vector Nat 3
deriving DecidableEq, Repr

/-! The model's own -/

/-- A report on its way to the root controller (R60, R133). -/
inductive Report where
  | holdOn (p : Part) (stamp : Nat)
  | holdOff (p : Part)
  | halt (p : Part) (cls : Fin 4) (h : HaltReq)
  | fault (p : Part) (r : FaultReport)
deriving DecidableEq, Repr

/-- The model's own bookkeeping: how many free choices have been taken (log entry 3), and the notes and root reports that a
command has made and not yet placed; both lists are empty between commands. -/
structure ModelOwn where
  choices : Nat
  fresh : List Note
  inbox : List Report
deriving DecidableEq, Repr

/-- The state of one hub. `porst` says that PORST# is held low; `now` is the hub's RP count; `pending` is the queue of
commands that wait, the front one first. -/
structure State where
  pending : List Instr
  porst : Bool
  role : Role
  now : Nat
  lp : LinkPorts
  ref : RefUnit
  cf : Forwarder
  pse : Vector Context 4
  dg : DomainGen
  tu : TriggerUnit
  hu : HoldUnit
  rc : Vector RootRec 4
  ma : Agent
  own : ModelOwn
deriving DecidableEq, Repr

/-! Reset values -/

/-- A port record after power-on reset (Table 2-1). -/
def Port.reset : Port where
  state := .down
  attempts := 0
  badRun := 0
  linkLat := 0
  pathLat := 0
  counters := tab fun _ => 0
  signal := false
  trainRun := 0
  windowFrom := 0
  nextSlot := 0
  sent := none

/-- A measuring sequence at its beginning (R28). -/
def Measure.fresh : Measure := ⟨0, none, []⟩

/-- A D port's work after power-on reset. -/
def DLink.reset : DLink := ⟨Measure.fresh, 0, false, 0x0000#16⟩

/-- An egress queue set with nothing queued (R51, R54). -/
def Egress.reset : Egress := ⟨[], [], [], false⟩

/-- Summary slots with nothing pending (R56). -/
def Slots.reset : Slots := ⟨none, tab fun _ => none, none, false, none⟩

/-- The forwarder after power-on reset; a hub reset keeps its response queue (R59, R62). -/
def Forwarder.reset (respQ : List Response) : Forwarder where
  routes := tab fun _ => ⟨0#6, false⟩
  egress := tab fun _ => Egress.reset
  slots := tab fun _ => Slots.reset
  lastServed := 3
  noteQ := []
  respQ := respQ

/-- A context after either reset (Table 4-1). -/
def Context.reset : Context where
  state := .idle
  epoch := 0
  expected := 0
  last := none
  freeze := none
  causes := Causes.none
  fault := none
  second := 0
  queue := []
  queueSlow := false
  childSlow := tab fun _ => false
  pace := false
  prev := tab fun _ => none
  frozenMark := 0

/-- The domain generator after either reset (Table 5-1). -/
def DomainGen.reset : DomainGen where
  slots := tab fun _ => 0
  entries := tab fun _ => ⟨.heldLow, 2, 0, 32, false⟩
  parts := tab fun _ => ⟨false, none, []⟩
  outs := tab fun _ => ⟨false, 0, false, false, false, false⟩

/-- The trigger unit after either reset (Table 6-1, R113, R124). -/
def TriggerUnit.reset : TriggerUnit where
  lines := tab fun _ => ⟨false, 0, .rise, 1, false, false, 0, 0, 0⟩
  kept := tab fun _ => ⟨false, false, false⟩
  captures := []

/-- A hold source table with every entry inactive (R129). -/
def HoldTable.reset : HoldTable := ⟨tab fun _ => none, none⟩

/-- The hold unit after either reset (Table 7-1, R126, R129). -/
def HoldUnit.reset : HoldUnit where
  lines := tab fun _ => ⟨false, 0, false, false⟩
  kept := tab fun _ => ⟨false, false, false⟩
  tables := tab fun _ => HoldTable.reset

/-- A root partition record after either reset (Table 8-1). -/
def RootRec.reset : RootRec where
  state := .idle
  epoch := 0
  lastIssued := none
  lastIssueTime := none
  freeze := none
  causes := Causes.none
  pendingCount := none
  pendingSwap := none
  fault := none
  haltOrigin := none
  count := 0
  swapStep := 0
  lead := 64
  haltMask := 0xF#4
  period := 400
  acc := 0
  nextIssue := none
  slow := false

/-- The agent after a reset of the given cause (R159, R164, R165, R167). -/
def Agent.reset (cause : ResetCause) : Agent where
  queue := []
  lastTake := none
  latches := 0#16
  enables := 0#16
  resetCause := cause
  hub := ⟨1024, false, 96, 32⟩
  counters := tab fun _ => 0

/-- The hub right after the release of PORST# with ROOTSEL selecting `role` (R168, R18, R163). -/
def State.powerOn (role : Role) : State where
  pending := []
  porst := false
  role := role
  now := 0
  lp :=
    { dports := tab fun _ => Port.reset
      uport := Port.reset
      dlinks := tab fun _ => DLink.reset
      echoes := []
      uArrival := none
      address := if role = .root then some 0x0000#16 else none
      depth := if role = .root then some 0 else none
      pathLat := 0 }
  ref := ⟨.unlocked, 0, false⟩
  cf := Forwarder.reset []
  pse := tab fun _ => Context.reset
  dg := DomainGen.reset
  tu := TriggerUnit.reset
  hu := HoldUnit.reset
  rc := tab fun _ => RootRec.reset
  ma := Agent.reset .powerOn
  own := ⟨0, [], []⟩

/-- The machine right after power-on reset: a hub strapped as a child (ROOTSEL is an input that every POWER_ON_RESET
samples anew; log entry 1). -/
def State.reset : State := State.powerOn .child

end Sys2Proof.Machine
end

