-- ==== Sys2Proof/Machine/Access.lean ====
section
/-! DEFINITION. The one way to each piece of State: a reader and a writer per block and per entry of a bank. -/

namespace Sys2Proof.Machine

open Sys2Proof

def State.setNow (s : State) (v : Nat) : State := { s with now := v }
def State.setLp (s : State) (v : LinkPorts) : State := { s with lp := v }
def State.setRef (s : State) (v : RefUnit) : State := { s with ref := v }
def State.setCf (s : State) (v : Forwarder) : State := { s with cf := v }
def State.setPse (s : State) (v : Vector Context 4) : State := { s with pse := v }
def State.setDg (s : State) (v : DomainGen) : State := { s with dg := v }
def State.setTu (s : State) (v : TriggerUnit) : State := { s with tu := v }
def State.setHu (s : State) (v : HoldUnit) : State := { s with hu := v }
def State.setRc (s : State) (v : Vector RootRec 4) : State := { s with rc := v }
def State.setMa (s : State) (v : Agent) : State := { s with ma := v }
def State.setOwn (s : State) (v : ModelOwn) : State := { s with own := v }

/-- The record of a port. -/
def State.port (s : State) : PortId → Port
  | .d n => look s.lp.dports n
  | .u => s.lp.uport

def State.setPort (s : State) (x : PortId) (v : Port) : State :=
  match x with
  | .d n => s.setLp { s.lp with dports := upd s.lp.dports n v }
  | .u => s.setLp { s.lp with uport := v }

/-- A D port's measuring and enumeration work. -/
def State.dlink (s : State) (n : Dn) : DLink := look s.lp.dlinks n

def State.setDLink (s : State) (n : Dn) (v : DLink) : State := s.setLp { s.lp with dlinks := upd s.lp.dlinks n v }

/-- A route table entry. -/
def State.route (s : State) (p : Part) : RouteEntry := look s.cf.routes p

def State.setRoute (s : State) (p : Part) (v : RouteEntry) : State :=
  s.setCf { s.cf with routes := upd s.cf.routes p v }

/-- The egress queues of a downstream link. -/
def State.egress (s : State) (n : Dn) : Egress := look s.cf.egress n

def State.setEgress (s : State) (n : Dn) (v : Egress) : State := s.setCf { s.cf with egress := upd s.cf.egress n v }

/-- The summary slots of a partition. -/
def State.slots (s : State) (p : Part) : Slots := look s.cf.slots p

def State.setSlots (s : State) (p : Part) (v : Slots) : State := s.setCf { s.cf with slots := upd s.cf.slots p v }

/-- A partition context. -/
def State.ctx (s : State) (p : Part) : Context := look s.pse p

def State.setCtx (s : State) (p : Part) (v : Context) : State := s.setPse (upd s.pse p v)

/-- The domain state of a partition. -/
def State.dpart (s : State) (p : Part) : DomainPart := look s.dg.parts p

def State.setDPart (s : State) (p : Part) (v : DomainPart) : State := s.setDg { s.dg with parts := upd s.dg.parts p v }

/-- An output line record. -/
def State.out (s : State) (i : Fin 16) : OutLine := look s.dg.outs i

def State.setOut (s : State) (i : Fin 16) (v : OutLine) : State := s.setDg { s.dg with outs := upd s.dg.outs i v }

/-- A trigger line record. -/
def State.trig (s : State) (i : Fin 8) : TrigLine := look s.tu.lines i

def State.setTrig (s : State) (i : Fin 8) (v : TrigLine) : State := s.setTu { s.tu with lines := upd s.tu.lines i v }

/-- A stall line record. -/
def State.stall (s : State) (i : Fin 4) : StallLine := look s.hu.lines i

def State.setStall (s : State) (i : Fin 4) (v : StallLine) : State := s.setHu { s.hu with lines := upd s.hu.lines i v }

/-- The hold source table of a partition. -/
def State.table (s : State) (p : Part) : HoldTable := look s.hu.tables p

def State.setTable (s : State) (p : Part) (v : HoldTable) : State := s.setHu { s.hu with tables := upd s.hu.tables p v }

/-- A root partition record. -/
def State.rootRec (s : State) (p : Part) : RootRec := look s.rc p

def State.setRootRec (s : State) (p : Part) (v : RootRec) : State := s.setRc (upd s.rc p v)

/-- Whether the reference unit is LOCKED. -/
def State.locked (s : State) : Bool := s.ref.state == .locked

/-- Whether the hub is the root. -/
def State.isRoot (s : State) : Bool := s.role == .root

/-- Whether link `n` stands in the link mask of partition `p` (R43). -/
def State.inMask (s : State) (p : Part) (n : Dn) : Bool := (s.route p).mask.getLsbD n

/-- Whether a port is UP. -/
def State.isUp (s : State) (x : PortId) : Bool := (s.port x).state == .up

/-- The hub's own tree address as it writes it (R12, R17, R79); log entry 4 for a hub that has none. -/
def State.ownAddr (s : State) : Addr := s.lp.address.getD Config.unassignedAddr

end Sys2Proof.Machine
end

