-- ==== Sys2Proof/Machine/Flags.lean ====
section
/-! DEFINITION. The hub's flags: event latches and the EVENT notes they make (R165, R166), and the saturating counters
(00_scope 6.7, R42, R61, R167). -/

namespace Sys2Proof.Machine

open Sys2Proof

/-- The weight of an event in the latch and enable sets (Table 9-1). -/
def eventWeight (e : Event) : BitVec 16 := 1#16 <<< e.code.val

/-- A note made by the present command; `settleNotes` places it when the command ends. -/
def pushNote (n : Note) (s : State) : State := s.setOwn { s.own with fresh := s.own.fresh ++ [n] }

/-- An event is raised: its latch is set, and a latch that goes from clear to set with its enable set makes an EVENT note
(R165, R166). -/
def raise (e : Event) (s : State) : State :=
  if s.ma.latches.getLsbD e.code then s
  else
    let t := s.setMa { s.ma with latches := s.ma.latches ||| eventWeight e }
    if s.ma.enables.getLsbD e.code then pushNote (.event s.ownAddr e) t else t

/-- A saturating counter after one more increment (00_scope 6.7). -/
def satSucc (n : Nat) : Nat := if n < counterMax then n + 1 else n

/-- COUNTER_SATURATED is raised the first time a counter reaches 65535 (R42, R61, R80, R87, R108, R111, R124). -/
def raiseIfSaturated (old : Nat) (s : State) : State := if old + 1 = counterMax then raise .counterSaturated s else s

/-- Counter `k` of a port is incremented (R167). -/
def bump (x : PortId) (k : Fin 8) (s : State) : State :=
  let c := look (s.port x).counters k
  raiseIfSaturated c (s.setPort x { s.port x with counters := upd (s.port x).counters k (satSucc c) })

/-- Hub counter 56 + `k` is incremented: 0 ALIGN_SHORT, 1 SWAP_REFUSED, 2 CAPTURE_OVERFLOW (R167). -/
def bumpHub (k : Fin 3) (s : State) : State :=
  let c := look s.ma.counters k
  raiseIfSaturated c (s.setMa { s.ma with counters := upd s.ma.counters k (satSucc c) })

/-! The counter directory's indices k of a port (R167). -/

def kBadCheck : Fin 8 := 0
def kUnknownKind : Fin 8 := 1
def kAttemptFail : Fin 8 := 2
def kLinkLoss : Fin 8 := 3
/-- D ports. -/
def kDeadRoute : Fin 8 := 4
def kStray : Fin 8 := 5
def kCellDrop : Fin 8 := 6
def kMgmtDrop : Fin 8 := 7
/-- U. -/
def kMisrouted : Fin 8 := 4
def kNoteDrop : Fin 8 := 5
def kResponseDrop : Fin 8 := 6
def kAgentDrop : Fin 8 := 7

end Sys2Proof.Machine
end

