-- ==== Sys2Proof/Machine/Ops.lean ====
section
/-! DEFINITION. Operations shared by the blocks: the free choices of order, the note and response queues (R59), the summary
slots (R56, R60), and what closes every command. -/

namespace Sys2Proof.Machine

open Sys2Proof

/-! Free choices of order (log entry 3) -/

/-- A list in an order that free choices from number `c` on decide. -/
def arrange {α : Type} : Nat → List α → List α
  | _, [] => []
  | _, [x] => [x]
  | c, x :: y :: l => (arrange (c + 1) (y :: l)).insertIdx (Config.freeChoice c % (l.length + 2)) x

/-- Two lists merged, each keeping its order, as free choices from number `c` on decide. -/
def weave {α : Type} : Nat → List α → List α → List α
  | _, [], ys => ys
  | _, x :: xs, [] => x :: xs
  | c, x :: xs, y :: ys =>
    let k := Config.freeChoice c % (ys.length + 2)
    (y :: ys).take k ++ x :: weave (c + 1) xs ((y :: ys).drop k)

/-- `k` free choices are used up. -/
def useChoices (k : Nat) (s : State) : State := s.setOwn { s.own with choices := s.own.choices + k }

/-! Upstream queues (R59) -/

/-- Whether cells may join the upstream queues: not at the root while the controller port is not UP (R38). -/
def State.upstreamOpen (s : State) : Bool := !s.isRoot || s.isUp .u

/-- A NOTE reaches the note queue of 16 cells: it joins the tail, is discarded at a root whose controller port is not UP
(R38), or is dropped, counted and raised as NOTE_DROP (R59). -/
def placeNote (n : Note) (s : State) : State :=
  if !s.upstreamOpen then s
  else if s.cf.noteQ.length < 16 then s.setCf { s.cf with noteQ := s.cf.noteQ ++ [n] }
  else raise .noteDrop (bump .u kNoteDrop s)

/-- An MRSP reaches the response queue of 8 cells (R59, R38). -/
def placeResponse (r : Response) (s : State) : State :=
  if !s.upstreamOpen then s
  else if s.cf.respQ.length < 8 then s.setCf { s.cf with respQ := s.cf.respQ ++ [r] }
  else bump .u kResponseDrop s

/-- The notes of one command in the order in which they join: TRIGGER notes keep their order (R117), STATE notes the
order of the events they end (R156), EVENT notes take any (R166), and the three kinds interleave freely (R59). -/
def noteOrder (c : Nat) (l : List Note) : List Note :=
  let trig := l.filter fun n => match n with | .trigger .. => true | _ => false
  let st := l.filter fun n => match n with | .state .. => true | _ => false
  let ev := l.filter fun n => match n with | .event .. | .other _ => true | _ => false
  weave c (weave (c + l.length) trig st) (arrange (c + 2 * l.length) ev)

/-- The notes made by a command join the note queue. Placing a note can itself make notes (NOTE_DROP, COUNTER_SATURATED),
which then find the queue full: three rounds place them all. -/
def settleNotes : Nat → State → State
  | 0, s => s.setOwn { s.own with fresh := [] }
  | k + 1, s =>
    match s.own.fresh with
    | [] => s
    | l =>
      settleNotes k
        ((noteOrder s.own.choices l).foldl (fun t n => placeNote n t)
          (useChoices (3 * l.length) (s.setOwn { s.own with fresh := [] })))

/-! Summary slots (R56, R60) -/

/-- A report is handed to the root controller, which takes it when the present event is complete (R157). -/
def toRoot (r : Report) (s : State) : State := s.setOwn { s.own with inbox := s.own.inbox ++ [r] }

/-- A write to the hub's FAULT slot of `p`: the first cause stays (R56); at the root a report of origin 0x0000 (R60). -/
def writeFault (p : Part) (r : FaultReport) (s : State) : State :=
  if s.isRoot then toRoot (.fault p { r with origin := 0x0000#16 }) s
  else
    match (s.slots p).fault with
    | some _ => s
    | none => s.setSlots p { s.slots p with fault := some r }

/-- An offer to the hub's HALTREQ slot of class `c` for `p`: it is taken by an empty slot or over a greater stamp
(R119, R120); at the root it is handed on (R60). -/
def offerHalt (p : Part) (c : Fin 4) (h : HaltReq) (s : State) : State :=
  if s.isRoot then toRoot (.halt p c h) s
  else
    match look (s.slots p).haltreq c with
    | none => s.setSlots p { s.slots p with haltreq := upd (s.slots p).haltreq c (some h) }
    | some g =>
      if h.stamp < g.stamp then s.setSlots p { s.slots p with haltreq := upd (s.slots p).haltreq c (some h) } else s

/-- A write to the hub's PACE slot of `p`; at the root it sets the record's slow flag (R60, R141). -/
def writePace (p : Part) (slow : Bool) (s : State) : State :=
  if s.isRoot then s.setRootRec p { s.rootRec p with slow := slow }
  else s.setSlots p { s.slots p with pace := some slow }

/-- START and ABORT empty the seven slots of `p` without sending them and set the reported state to OFF (R57). -/
def clearSlots (p : Part) (s : State) : State := s.setSlots p Slots.reset

/-! Pace governor (4.6) -/

/-- The pace state that the sources of `p` give, true for SLOW (R84, Table 4-5). -/
def State.paceOf (s : State) (p : Part) : Bool :=
  (s.ctx p).queueSlow || allLinks.any fun n => look (s.ctx p).childSlow n || (s.inMask p n && (s.egress n).backedUp)

/-- The pace state of `p` is recomputed. A change is written to the PACE slot unless the context is IDLE, and a change to
SLOW raises PACE_SLOW (R84). -/
def settlePace (p : Part) (s : State) : State :=
  let v := s.paceOf p
  if v = (s.ctx p).pace then s
  else
    let t := s.setCtx p { s.ctx p with pace := v }
    let t := if (s.ctx p).state = .idle then t else writePace p v t
    if v then raise .paceSlow t else t

/-- Every partition's pace state is recomputed. -/
def settlePaces (s : State) : State := allParts.foldl (fun t p => settlePace p t) s

end Sys2Proof.Machine
end

