-- ==== Sys2Proof/Machine/Domains.lean ====
section
/-! DEFINITION. The domain generator: levels (R94 to R97), its share of an execution (R98, R106), swaps (R105), rest levels
(R102) and the effects of START and ABORT (R93). -/

namespace Sys2Proof.Machine

open Sys2Proof

/-- The high time H of a CLOCK entry of period `per` and duty code `duty` (R94). -/
def highTime (per duty : Nat) : Nat :=
  let h := (per * duty + 32) / 64
  if h = 0 then 1 else if per ≤ h then per - 1 else h

/-- The level of an entry at step `n` counted from `e`, true for HIGH (R96). -/
def entryLevel (en : DomainEntry) (e n : Nat) : Bool :=
  match en.mode with
  | .heldLow => false
  | .heldHigh => true
  | .clock =>
    let pos := (n - e) % en.period
    let phase := en.phase % en.period
    decide ((pos + en.period - phase) % en.period < highTime en.period en.duty)

/-- The number of the entry of slot `i` in a bank (R90). -/
def entryIndex (bank : Bool) (i : Fin 16) : Fin 32 := ⟨(if bank then 16 else 0) + i.val, by split <;> omega⟩

/-- The step from which an entry of `p` counts its positions (R95). -/
def State.countFrom (s : State) (p : Part) (en : DomainEntry) : Nat :=
  if en.anchorSwap then (s.dpart p).swapEpoch.getD (s.ctx p).epoch else (s.ctx p).epoch

/-- The level of the domain of slot `i`, bound to `p`, at step `n` (R96). -/
def State.domainLevel (s : State) (p : Part) (i : Fin 16) (n : Nat) : Bool :=
  let en := look s.dg.entries (entryIndex (s.dpart p).bank i)
  entryLevel en (s.countFrom p en) n

/-- Whether an output line is in DOMAIN mode on a slot bound to `p` (R98, R101). -/
def State.onDomainOf (s : State) (o : OutLine) (p : Part) : Bool := o.domain && look s.dg.slots o.slot == p

/-- The line level of a DOMAIN line of `p` at step `n` (R97). -/
def State.lineLevel (s : State) (p : Part) (o : OutLine) (n : Nat) : Bool := s.domainLevel p o.slot n != o.invert

/-- The swap executed at step `n` when `n` is the first pending swap step of `p` (R106). -/
def executeSwap (p : Part) (n : Nat) (s : State) : State :=
  match (s.dpart p).swaps with
  | w :: ws => if w = n then s.setDPart p { bank := !(s.dpart p).bank, swapEpoch := some n, swaps := ws } else s
  | [] => s

/-- The lines of `p` take their levels at step `n` (R98); their pins show them when the RP ends, if no later execution
replaces them (R99; log entry 32). -/
def driveLines (p : Part) (n : Nat) (s : State) : State :=
  let outs : Vector OutLine 16 := tab fun i =>
    if s.onDomainOf (s.out i) p then { s.out i with level := s.lineLevel p (s.out i) n } else s.out i
  s.setDg { s.dg with outs := outs }

/-- The domain generator's share of the execution of step `n` of `p` (R98). -/
def executeDomains (p : Part) (n : Nat) (s : State) : State := driveLines p n (executeSwap p n s)

/-- A line at its rest level, on its pin at once (R101, R102). -/
def OutLine.atRest (o : OutLine) : OutLine := { o with level := o.rest, pin := o.rest }

/-- The DOMAIN lines of `p` go to their rest levels (R102). -/
def restLines (p : Part) (s : State) : State :=
  let outs : Vector OutLine 16 := tab fun i =>
    if s.onDomainOf (s.out i) p then (s.out i).atRest else s.out i
  s.setDg { s.dg with outs := outs }

/-- START at the domain generator (R93, R102). -/
def startDomains (p : Part) (s : State) : State := restLines p (s.setDPart p ⟨false, none, []⟩)

/-- ABORT at the domain generator: the active bank stays (R93, R102). -/
def abortDomains (p : Part) (s : State) : State :=
  restLines p (s.setDPart p { bank := (s.dpart p).bank, swapEpoch := none, swaps := [] })

/-- Whether a SWAP at step `w` is refused by the record and context it meets (R105). -/
def State.refusesSwap (s : State) (p : Part) (w : Nat) : Bool :=
  decide (w < (s.ctx p).expected) || decide (4 ≤ (s.dpart p).swaps.length)
    || match (s.dpart p).swaps.getLast? with
       | some v => decide (w ≤ v)
       | none => false

/-- A SWAP cell handed to the domain generator (R105, R108). -/
def takeSwap (p : Part) (w : Nat) (s : State) : State :=
  if !(s.route p).isLocal then s
  else
    match (s.ctx p).state with
    | .idle | .faulted => s
    | .armed | .running | .freezing | .frozen =>
      if s.refusesSwap p w then bumpHub 1 s
      else s.setDPart p { s.dpart p with swaps := (s.dpart p).swaps ++ [w] }

end Sys2Proof.Machine
end

