-- ==== Sys2Proof/Machine/Holds.lean ====
section
/-! DEFINITION. The hold unit: the hold source table (R129), the HOLD summary (R131, R132, R133), stall sampling (R126 to
R128) and child reports (R130, R134, R136). -/

namespace Sys2Proof.Machine

open Sys2Proof

/-- The entry of stall line `i` in a hold source table (Table 7-2). -/
def stallEntry (i : Fin 4) : Fin 10 := ⟨i.val, by omega⟩

/-- The entry of child link `n` in a hold source table (Table 7-2). -/
def childEntry (n : Dn) : Fin 10 := ⟨4 + n.val, by omega⟩

/-- The hold stamp: the least stamp of the active entries, none while the hold set is empty (R129). -/
def HoldTable.stamp (t : HoldTable) : Option Nat := (t.entries.toList.filterMap id).min?

/-- ON with a stamp: the HOLD slot is written, or at the root the report handed on, and announced (R131, R133). -/
def announceOn (p : Part) (m : Nat) (s : State) : State :=
  let t := s.setTable p { s.table p with announced := some m }
  if s.isRoot then toRoot (.holdOn p m) t else t.setSlots p { t.slots p with hold := some (.on m) }

/-- The hold set of `p` has become empty: the HOLD slot by its reported state (R132); at the root an OFF when an ON was
handed on before it (R133). -/
def announceOff (p : Part) (s : State) : State :=
  let t := s.setTable p { s.table p with announced := none }
  if s.isRoot then if (s.table p).announced.isSome then toRoot (.holdOff p) t else t
  else if (t.slots p).reported then t.setSlots p { t.slots p with hold := some .off }
  else
    match (t.slots p).hold with
    | some (.on _) => t.setSlots p { t.slots p with hold := none }
    | _ => t

/-- The HOLD summary follows a change of the hold set of `p`, unless the context is IDLE (R131, R132). DESIGN CHOICE (log
entry 31): two changes in one RP are followed one after the other in the order of the commands, though R132 has either
order end alike. -/
def followHold (p : Part) (s : State) : State :=
  if (s.ctx p).state = .idle then s
  else
    match (s.table p).stamp, (s.table p).announced with
    | none, _ => announceOff p s
    | some m, none => announceOn p m s
    | some m, some a => if m < a then announceOn p m s else s

/-- An entry of the hold source table of `p` takes a value; a change is a change of the hold set. -/
def setEntry (p : Part) (i : Fin 10) (v : Option Nat) (s : State) : State :=
  if look (s.table p).entries i = v then s
  else followHold p (s.setTable p { s.table p with entries := upd (s.table p).entries i v })

/-- A HOLD cell of `p` from child link `n`: ON with its stamp, or OFF (R130). -/
def takeHold (p : Part) (n : Dn) (msg : Option Nat) (s : State) : State :=
  match msg with
  | none => setEntry p (childEntry n) none s
  | some m =>
    if m < (s.ctx p).epoch then s
    else
      match look (s.table p).entries (childEntry n) with
      | none => setEntry p (childEntry n) (some m) s
      | some h => setEntry p (childEntry n) (some (min h m)) s

/-- The entry of a lost link goes inactive in every table (R134). -/
def dropChildHolds (n : Dn) (s : State) : State :=
  allParts.foldl (fun t p => setEntry p (childEntry n) none t) s

/-- START and ABORT clear the table and the announced stamp of `p` (R136). -/
def clearHolds (p : Part) (s : State) : State := s.setTable p HoldTable.reset

/-- The qualified sample: the level at least two of the three kept levels show (R113, R126, Table 6-2). -/
def Kept.majority (k : Kept) : Bool := (k.l3 && k.l2) || (k.l3 && k.l1) || (k.l2 && k.l1)

/-- A level taken in one RP joins the kept levels (R113, R126). -/
def Kept.take (k : Kept) (level : Bool) : Kept := ⟨k.l2, k.l1, level⟩

/-- Whether stall line `i` is sampled at the sampling events of `p` (R127). -/
def State.stallSampled (s : State) (p : Part) (i : Fin 4) : Bool :=
  (s.stall i).enable && (s.stall i).part == p && (s.route p).isLocal

/-- Whether the qualified sample of stall line `i` asserts it (R125). -/
def State.asserted (s : State) (i : Fin 4) : Bool := (look s.hu.kept i).majority != (s.stall i).activeLow

/-- The entry of stall line `i` after a sampling with stamp `m` (R128). -/
def State.sampledEntry (s : State) (p : Part) (m : Nat) (i : Fin 4) : Option Nat :=
  if s.asserted i then some ((look (s.table p).entries (stallEntry i)).getD m) else none

/-- The qualified levels taken at a sampling of `p` (R127). -/
def takeQualified (p : Part) (s : State) : State :=
  let lines : Vector StallLine 4 := tab fun i =>
    if s.stallSampled p i then { s.stall i with qualified := (look s.hu.kept i).majority } else s.stall i
  s.setHu { s.hu with lines := lines }

/-- A sampling of the stall lines of `p` with stamp `m` (R127, R128). The lines whose entries change are taken in a free
order: the manual orders trigger lines (R114) and not stall lines (log entry 3). -/
def sampleStalls (p : Part) (m : Nat) (s : State) : State :=
  let changing := ([0, 1, 2, 3] : List (Fin 4)).filter fun i =>
    s.stallSampled p i && look (s.table p).entries (stallEntry i) != s.sampledEntry p m i
  (arrange s.own.choices changing).foldl (fun t i => setEntry p (stallEntry i) (s.sampledEntry p m i) t)
    (useChoices changing.length (takeQualified p s))

end Sys2Proof.Machine
end

