-- ==== Sys2Proof/Machine/Triggers.lean ====
section
/-! DEFINITION. The trigger unit: sampling and matching (R114, R115), counting and firing (R116, R117), the capture table
(R122, R123), halt offers (R119) and the effect of START (R121). -/

namespace Sys2Proof.Machine

open Sys2Proof

/-- Whether a qualified sample matches a mode, given the previous sample (R115). -/
def TrigMode.hit (m : TrigMode) (prev : Option Bool) (q : Bool) : Bool :=
  match m with
  | .rise => prev == some false && q
  | .fall => prev == some true && !q
  | .high => q
  | .low => !q

/-- The previous sample of line `i` in the context of `p` (R111). -/
def State.prev (s : State) (p : Part) (i : Fin 8) : Option Bool := look (s.ctx p).prev i

/-- The previous sample of line `i` in the context of `p` takes a value. -/
def setPrev (p : Part) (i : Fin 8) (v : Option Bool) (s : State) : State :=
  s.setCtx p { s.ctx p with prev := upd (s.ctx p).prev i v }

/-- A capture record joins the capture table of 16, or the capture policy decides (R122, R123). -/
def addCapture (c : Capture) (s : State) : State :=
  if s.tu.captures.length < 16 then s.setTu { s.tu with captures := s.tu.captures ++ [c] }
  else
    let t := if s.ma.hub.keepNewest then s.setTu { s.tu with captures := s.tu.captures.drop 1 ++ [c] } else s
    raise .captureOverflow (bumpHub 2 t)

/-- The firing of line `i` at the execution of step `n` of `p`: the line's fields (R116), then the capture record, the
TRIGGER note and the halt request (R117). -/
def fireLine (p : Part) (i : Fin 8) (n : Nat) (s : State) : State :=
  let l := s.trig i
  let occ := satSucc l.fired
  let t := s.setTrig i { l with count := 0, fired := occ, enable := l.enable && l.repeats }
  let t := raiseIfSaturated l.fired t
  let t := addCapture ⟨i, p, n, occ⟩ t
  let t := pushNote (.trigger s.ownAddr p i n occ) t
  if l.halts then offerHalt p l.cls ⟨n, s.ownAddr, i⟩ t else t

/-- The sample of line `i` at the execution of step `n` of `p`: judged, counted, and kept as the previous sample
(R114, R115, R116). -/
def sampleLine (p : Part) (n : Nat) (s : State) (i : Fin 8) : State :=
  let l := s.trig i
  if l.enable && l.part == p then
    let q := (look s.tu.kept i).majority
    let t :=
      if l.mode.hit (s.prev p i) q then
        if l.target ≤ l.count + 1 then fireLine p i n s else s.setTrig i { l with count := l.count + 1 }
      else s
    setPrev p i (some q) t
  else s

/-- The eight trigger lines in order. -/
def allTrigs : List (Fin 8) := [0, 1, 2, 3, 4, 5, 6, 7]

/-- The trigger unit's share of the execution of step `n` of `p`, in line order (R114). -/
def sampleTriggers (p : Part) (n : Nat) (s : State) : State := allTrigs.foldl (sampleLine p n) s

/-- START at the trigger unit: count and fired of the lines of `p` become 0, their previous samples absent (R121). -/
def startTriggers (p : Part) (s : State) : State :=
  let lines : Vector TrigLine 8 := tab fun i =>
    if (s.trig i).part = p then { s.trig i with count := 0, fired := 0 } else s.trig i
  let prev : Vector (Option Bool) 8 := tab fun i => if (s.trig i).part = p then none else s.prev p i
  (s.setTu { s.tu with lines := lines }).setCtx p { s.ctx p with prev := prev }

end Sys2Proof.Machine
end

