-- ==== Sys2Proof/Machine/Engine.lean ====
section
/-! DEFINITION. The partition step engine: faults (R79, R80), run-control cells (R65, R68, R69, R70), STEP cells (R66, R67,
R72, R73, R77), executions (R74, R76) and the sampling of a FROZEN context (R127). -/

namespace Sys2Proof.Machine

open Sys2Proof

/-- A fault reaches the context of `p`: none in IDLE, counted in FAULTED (R80), else the context goes to FAULTED, reports
and raises PART_FAULT (R79). -/
def faultCtx (p : Part) (cause : FaultCause) (s : State) : State :=
  let c := s.ctx p
  match c.state with
  | .idle => s
  | .faulted => raiseIfSaturated c.second (s.setCtx p { c with second := satSucc c.second })
  | .armed | .running | .freezing | .frozen =>
    let t := s.setCtx p { c with state := .faulted, fault := some cause, queue := [], queueSlow := false }
    settlePace p (raise .partFault (writeFault p ⟨cause, s.ownAddr, c.last⟩ t))

/-- The context that START(e) leaves (R65, R84). -/
def Context.started (c : Context) (e : Nat) : Context :=
  { c with
    state := .armed
    epoch := e
    expected := e
    last := none
    freeze := none
    causes := Causes.none
    fault := none
    second := 0
    queue := []
    queueSlow := false
    childSlow := tab fun _ => false }

/-- The context that ABORT leaves (R70, R84). -/
def Context.aborted (c : Context) : Context :=
  { c with
    state := .idle
    freeze := none
    causes := Causes.none
    fault := none
    second := 0
    queue := []
    queueSlow := false
    childSlow := tab fun _ => false }

/-- After START the PACE slot is written SLOW when the pace state is SLOW (R84). -/
def reportStartPace (p : Part) (s : State) : State := if (s.ctx p).pace then writePace p true s else s

/-- A START carrying epoch `e` (R65), with its effects at the forwarder (R57), the hold unit (R136), the trigger unit (R121)
and the domain generator (R93, R102). -/
def startCtx (p : Part) (e : Nat) (s : State) : State :=
  let t := if (s.ctx p).state = .idle then s else raise .restarted s
  let t := t.setCtx p ((t.ctx p).started e)
  let t := startDomains p (startTriggers p (clearHolds p (clearSlots p t)))
  let t := reportStartPace p (settlePace p t)
  if e = freezeMax then faultCtx p .protocol t else t

/-- An ABORT (R70), with its effects at the forwarder (R57), the hold unit (R136) and the domain generator (R93, R102). -/
def abortCtx (p : Part) (s : State) : State :=
  settlePace p (abortDomains p (clearHolds p (clearSlots p (s.setCtx p (s.ctx p).aborted))))

/-- The freeze point after a FREEZE carrying `f`: a lower one already held stays (R68). -/
def Context.lowered (c : Context) (f : Nat) : Nat :=
  match c.freeze with
  | some g => min g f
  | none => f

/-- Whether every step below `f` has been executed (R68). -/
def Context.executedBelow (c : Context) (f : Nat) : Bool :=
  match c.last with
  | some l => l + 1 == f
  | none => f == c.epoch

/-- The context with its state FROZEN from RP `now` on (R127 counts from the event that takes it there). -/
def Context.toFrozen (c : Context) (now : Nat) : Context :=
  { c with state := .frozen, frozenMark := if c.state = .frozen then c.frozenMark else now }

/-- The context that a FREEZE it takes leaves (R68). -/
def Context.frozenAt (c : Context) (f : Nat) (causes : Causes) (now : Nat) : Context :=
  let d := { c with freeze := some (c.lowered f), causes := causes }
  if c.executedBelow (c.lowered f) then d.toFrozen now else { d with state := .freezing }

/-- A FREEZE carrying `f`, a cause set and the LEAD_SHORT flag (R68). -/
def freezeCtx (p : Part) (f : Nat) (causes : Causes) (leadShort : Bool) (s : State) : State :=
  match (s.ctx p).state with
  | .idle | .faulted => s
  | .armed | .running | .freezing | .frozen =>
    if f < (s.ctx p).expected then faultCtx p .protocol s
    else
      let t := s.setCtx p ((s.ctx p).frozenAt f causes s.now)
      if leadShort then raise .leadShort t else t

/-- The context whose freeze point a RESUME clears (R69). -/
def Context.resumed (c : Context) : Context :=
  { c with freeze := none, causes := Causes.none, state := if c.last.isSome then .running else .armed }

/-- A RESUME carrying `r` (R69). -/
def resumeCtx (p : Part) (r : Nat) (s : State) : State :=
  match (s.ctx p).state with
  | .idle | .faulted => s
  | .armed | .running => faultCtx p .protocol s
  | .freezing | .frozen =>
    if (s.ctx p).freeze = some r then s.setCtx p (s.ctx p).resumed else faultCtx p .protocol s

/-- Step `n` becomes the last executed (or received) step (R76, R77). -/
def Context.advance (c : Context) (n now : Nat) : Context :=
  let d := { c with last := some n }
  if c.freeze = some (n + 1) then d.toFrozen now else if c.state = .armed then { d with state := .running } else d

/-- Whether a step with AGE `age` is short at this hub (R72, R73). -/
def State.isShort (s : State) (age : Nat) : Bool := decide (s.ma.hub.budget < s.lp.pathLat + age) || age == 4095

/-- The expiry of a step arriving now with AGE `age` (R72). -/
def State.expiry (s : State) (age : Nat) : Nat :=
  if s.isShort age then s.now else s.now + (s.ma.hub.budget - s.lp.pathLat - age)

/-- A short step raises ALIGN_SHORT and is counted (R73). -/
def noteShort (age : Nat) (s : State) : State := if s.isShort age then bumpHub 0 (raise .alignShort s) else s

/-- The context with a step at the tail of its hold queue; the hold-queue source goes SLOW at the high water mark (R82). -/
def Context.enqueue (c : Context) (e : HoldEntry) (high : Nat) : Context :=
  { c with queue := c.queue ++ [e], queueSlow := decide (high ≤ c.queue.length + 1) || c.queueSlow }

/-- An accepted step `n` (R67): expected next becomes `n` + 1; a local context enqueues it or overruns, another receives
it. -/
def acceptStep (p : Part) (n age : Nat) (s : State) : State :=
  let t := s.setCtx p { s.ctx p with expected := n + 1 }
  if (s.route p).isLocal then
    let t := noteShort age t
    if 128 ≤ (t.ctx p).queue.length then faultCtx p .overrun t
    else settlePace p (t.setCtx p ((t.ctx p).enqueue ⟨n, s.expiry age⟩ s.ma.hub.high))
  else t.setCtx p ((t.ctx p).advance n s.now)

/-- Whether step `n` lies at or above the context's freeze point or the end of the step numbers (R66). -/
def Context.barred (c : Context) (n : Nat) : Bool :=
  decide (freezeMax ≤ n) ||
    match c.freeze with
    | some f => decide (f ≤ n)
    | none => false

/-- A STEP carrying `n` and `age`, arriving now (R66). -/
def stepCtx (p : Part) (n age : Nat) (s : State) : State :=
  match (s.ctx p).state with
  | .idle | .faulted => s
  | .frozen => faultCtx p .protocol s
  | .armed | .running | .freezing =>
    if n ≠ (s.ctx p).expected then faultCtx p .stepGap s
    else if (s.ctx p).barred n then faultCtx p .protocol s
    else acceptStep p n age s

/-- The context after its head entry is executed (R76); the hold-queue source goes OK at the low water mark (R82). -/
def Context.dequeue (c : Context) (e : HoldEntry) (rest : List HoldEntry) (low now : Nat) : Context :=
  { c with queue := rest, queueSlow := c.queueSlow && decide (low < rest.length) }.advance e.step now

/-- Whether the context is in a state in which steps are executed (R114). -/
def Context.executes (c : Context) : Bool :=
  match c.state with
  | .armed | .running | .freezing => true
  | .idle | .frozen | .faulted => false

/-- The execution of the head entry `e` of the hold queue of `p` (R76): context and pace governor, then domain generator
(R98), trigger unit (R114) and hold unit (R127). -/
def executeEntry (p : Part) (e : HoldEntry) (rest : List HoldEntry) (s : State) : State :=
  let t := settlePace p (s.setCtx p ((s.ctx p).dequeue e rest s.ma.hub.low s.now))
  sampleStalls p e.step (sampleTriggers p e.step (executeDomains p e.step t))

/-- The head entry of the hold queue of `p` is executed if it has expired (R74). -/
def executeHead (p : Part) (s : State) : State :=
  match (s.ctx p).queue with
  | [] => s
  | e :: rest =>
    if s.locked && (s.route p).isLocal && (s.ctx p).executes && decide (e.expiry ≤ s.now) then executeEntry p e rest s
    else s

/-- The sampling of a FROZEN local context in one RP, from the RP after the one that froze it on (R127). -/
def sampleFrozen (p : Part) (s : State) : State :=
  let c := s.ctx p
  if s.locked && (s.route p).isLocal && c.state == .frozen && decide (c.frozenMark < s.now) then
    sampleStalls p (c.last.getD c.epoch) (s.setCtx p { c with frozenMark := s.now })
  else s

end Sys2Proof.Machine
end

