-- ==== Sys2Proof/Machine/Forwarder.lean ====
section
/-! DEFINITION. The cell forwarder: egress queues (R51, R53, R54), downward partition cells (R45, R46, R47), management
requests (R48, R159), upward summary cells (R49, R60, R83) and the AGE of a departing STEP (R55). -/

namespace Sys2Proof.Machine

open Sys2Proof

/-! Egress queues -/

/-- An urgent or step cell finds its queue on link `n` full (R51). -/
def dropCell (n : Dn) (s : State) : State := raise .cellLoss (bump (.d n) kCellDrop s)

/-- A cell joins the step queue of link `n`; the report becomes backed up at 12 (R54). -/
def joinSteps (n : Dn) (c : StepCopy) (s : State) : State :=
  let g := s.egress n
  settlePaces
    (s.setEgress n { g with steps := g.steps ++ [c], backedUp := decide (12 ≤ g.steps.length + 1) || g.backedUp })

/-- Cells leave the step queue of link `n`, which then holds `l`; the report becomes clear at 4 (R54). -/
def shrinkSteps (n : Dn) (l : List StepCopy) (s : State) : State :=
  let g := s.egress n
  settlePaces (s.setEgress n { g with steps := l, backedUp := g.backedUp && decide (4 < l.length) })

/-- The STEP cells of partition `p` waiting on link `n` are removed (R47). -/
def removeSteps (n : Dn) (p : Part) (s : State) : State :=
  let l := (s.egress n).steps.filter fun c => c.part != p
  if l.length = (s.egress n).steps.length then s else shrinkSteps n l s

/-- A run-control cell is placed in the urgent queue of link `n` (R51); a START or ABORT removes the STEPs of its partition
(R47). -/
def placeRun (n : Dn) (p : Part) (r : Run) (s : State) : State :=
  let g := s.egress n
  if g.urgent.length < 8 then
    let t := s.setEgress n { g with urgent := g.urgent ++ [⟨p, r⟩] }
    match r with
    | .start _ | .abort => removeSteps n p t
    | .freeze .. | .resume _ | .swap _ => t
  else dropCell n s

/-- A STEP copy is placed in the step queue of link `n` (R51). -/
def placeStep (n : Dn) (c : StepCopy) (s : State) : State :=
  if (s.egress n).steps.length < 16 then joinSteps n c s else dropCell n s

/-- An MREQ copy is placed in the management queue of link `n` (R51). -/
def placeMgmt (n : Dn) (r : Request) (s : State) : State :=
  let g := s.egress n
  if g.mgmt.length < 16 then s.setEgress n { g with mgmt := g.mgmt ++ [r] } else bump (.d n) kMgmtDrop s

/-- The number of cells in the three queues of link `n` (R53). -/
def State.egressCount (s : State) (n : Dn) : Nat :=
  (s.egress n).urgent.length + (s.egress n).steps.length + (s.egress n).mgmt.length

/-- The three queues of link `n` are emptied without counting (R53); its backed-up report goes clear (R54). -/
def emptyEgress (n : Dn) (s : State) : State := settlePaces (s.setEgress n Egress.reset)

/-! Downward partition cells -/

/-- A downward partition cell of `p` goes to each link of its mask: placed where the link is UP, counted in DEAD_ROUTE where
it is not (R45). -/
def copyDown (p : Part) (place : Dn → State → State) (s : State) : State :=
  allLinks.foldl
    (fun t n => if t.inMask p n then if t.isUp (.d n) then place n t else bump (.d n) kDeadRoute t else t) s

/-- A run-control cell at the context of `p`, and a SWAP at the domain generator (R45). -/
def takeRun (p : Part) (r : Run) (s : State) : State :=
  match r with
  | .start e => startCtx p e s
  | .freeze f causes leadShort => freezeCtx p f causes leadShort s
  | .resume f => resumeCtx p f s
  | .abort => abortCtx p s
  | .swap w => takeSwap p w s

/-- A run-control cell of `p` is handed to the context and copied to the routed links (R45, R46). -/
def deliverRun (p : Part) (r : Run) (s : State) : State := copyDown p (fun n => placeRun n p r) (takeRun p r s)

/-- A STEP of `p` arriving (or issued) now is handed to the context and copied to the routed links (R45, R46). -/
def deliverStep (p : Part) (n age : Nat) (s : State) : State :=
  copyDown p (fun k => placeStep k ⟨p, n, age, s.now⟩) (stepCtx p n age s)

/-- The AGE with which a STEP copy leaves now (R55). -/
def State.ageOut (s : State) (c : StepCopy) : Nat := min 4095 (c.age + (s.now - c.arrival))

/-! Management requests -/

/-- A request joins the agent request queue of 4, or is dropped and counted (R159). -/
def joinAgent (r : Request) (s : State) : State :=
  if s.ma.queue.length < 4 then s.setMa { s.ma with queue := s.ma.queue ++ [r] } else bump .u kAgentDrop s

/-- Where an address leads from this hub (R9); none matches or lies below a hub whose address is unassigned. -/
def State.routeOf (s : State) (a : Addr) : Route :=
  match s.lp.address, s.lp.depth with
  | some own, some d => a.route own d
  | _, _ => if a.isBroadcast then .broadcast else .elsewhere

/-- An MREQ delivered by the U port is routed by its DEST (R48). -/
def routeRequest (r : Request) (s : State) : State :=
  match s.routeOf r.dest with
  | .here => joinAgent r s
  | .below n => if s.isUp (.d n) then placeMgmt n r s else bump (.d n) kDeadRoute s
  | .broadcast => allLinks.foldl (fun t n => if t.isUp (.d n) then placeMgmt n r t else t) (joinAgent r s)
  | .elsewhere => bump .u kMisrouted s

/-! Upward summary cells -/

/-- An upward summary cell of `p` on link `n`: STRAY, discarded at an IDLE context, or accepted (R49). -/
def acceptSummary (p : Part) (n : Dn) (act : State → State) (s : State) : State :=
  if !s.inMask p n then bump (.d n) kStray s else if (s.ctx p).state = .idle then s else act s

/-- An accepted FAULT goes unchanged to the hub's own slot, or at the root to the root controller (R49, R60). -/
def takeFault (p : Part) (r : FaultReport) (s : State) : State :=
  if s.isRoot then toRoot (.fault p r) s else writeFault p r s

/-- An accepted PACE sets the child source of link `n` for `p` (R83). -/
def takePace (p : Part) (n : Dn) (slow : Bool) (s : State) : State :=
  settlePace p (s.setCtx p { s.ctx p with childSlow := upd (s.ctx p).childSlow n slow })

/-- The child source of a lost link goes OK in every partition (R83). -/
def dropChildPace (n : Dn) (s : State) : State := allParts.foldl (fun t p => takePace p n false t) s

end Sys2Proof.Machine
end

