-- ==== Sys2Proof/Machine/Root.lean ====
section
/-! DEFINITION. The root controller: the pacer (R140 to R143), stop requests (R144 to R146), FROZEN (R147), fault reports
(R148), resume (R149, R150), the controller's commands (R151 to R155) and STATE notes (R156). -/

namespace Sys2Proof.Machine

open Sys2Proof

/-- N, the next step of a record (R138). -/
def RootRec.next (r : RootRec) : Nat :=
  match r.lastIssued with
  | some l => l + 1
  | none => r.epoch

/-- The STATE note of a record as it stands (R156). -/
def pushStateNote (p : Part) (s : State) : State :=
  let r := s.rootRec p
  pushNote (.state p r.state r.causes r.freeze r.lastIssued) s

/-- An event of the root controller with its STATE note if the record's state has changed at its end (R156). -/
def withStateNote (p : Part) (act : State → State) (s : State) : State :=
  let t := act s
  if (t.rootRec p).state = (s.rootRec p).state then t else pushStateNote p t

/-- Whether a record with its freeze point is FROZEN at once (R147): the step before it was issued A RP ago or earlier, or
no step has been issued and it is the epoch. -/
def RootRec.frozenBy (r : RootRec) (budget now : Nat) : Bool :=
  match r.freeze, r.lastIssued, r.lastIssueTime with
  | some f, some l, some t => l + 1 == f && decide (t + budget ≤ now)
  | some f, none, _ => f == r.epoch
  | _, _, _ => false

/-- Whether a candidate sets or lowers the freeze point (R144). -/
def RootRec.lowers (r : RootRec) (cand : Nat) : Bool :=
  match r.freeze with
  | none => true
  | some f => decide (cand < f)

/-- A record that stops at a freeze point is FREEZING, or FROZEN where R147 finds it so at once (R144). -/
def RootRec.stopping (r : RootRec) (budget now : Nat) : RootRec :=
  { r with state := if r.frozenBy budget now then .frozen else .freezing }

/-- The record after a candidate with its cause (R144): the cause added in every case, the freeze point set or lowered. DESIGN
CHOICE (log entry 35): a candidate that keeps the freeze point leaves the state too, so a PAUSE taken in the RP of the FROZEN
moment and before it leaves the record FREEZING (R147, R157), though R152 may be read to have it FROZEN at once. -/
def RootRec.stopped (r : RootRec) (cand : Nat) (causes : Causes) (budget now : Nat) : RootRec :=
  if r.lowers cand then { r with causes := causes, freeze := some cand }.stopping budget now else { r with causes := causes }

/-- A stop request applied to a RUNNING or FREEZING record (R144): a FREEZE is made when the freeze point is set or
lowered, and LEAD_SHORT raised when it carries that flag (R157). -/
def stopRequest (p : Part) (cand : Nat) (causes : Causes) (short : Bool) (s : State) : State :=
  let r := s.rootRec p
  let t := s.setRootRec p (r.stopped cand causes s.ma.hub.budget s.now)
  if r.lowers cand then
    let t := deliverRun p (.freeze cand causes short) t
    if short then raise .leadShort t else t
  else t

/-- The candidate of a hold or halt request with stamp `m` (R144). -/
def RootRec.candidate (r : RootRec) (m : Nat) : Nat := min freezeMax (max (m + r.lead) r.next)

/-- Whether the lead that a stamp asks for is cut short (R144). -/
def RootRec.leadShort (r : RootRec) (m : Nat) : Bool := decide (m + r.lead < r.next)

/-! The pacer -/

/-- The effective period Qe (R141). -/
def RootRec.effectivePeriod (r : RootRec) : Nat := if r.slow then min (2 * r.period) 1048575 else r.period

/-- The record after the issue of its next step at RP `now` (R140, R141, R155). -/
def RootRec.issued (r : RootRec) (now : Nat) : RootRec :=
  { r with
    lastIssued := some r.next
    lastIssueTime := some now
    nextIssue := some (now + (r.acc + r.effectivePeriod) / 16)
    acc := (r.acc + r.effectivePeriod) % 16
    pendingSwap := if r.pendingSwap = some r.next then none else r.pendingSwap }

/-- The limit at the issue of step 2^40 − 2 (R143). -/
def applyLimit (p : Part) (s : State) : State :=
  let r := s.rootRec p
  let causes := { r.causes with limit := true }
  match r.freeze with
  | some _ => s.setRootRec p { r with causes := causes }
  | none =>
    deliverRun p (.freeze freezeMax causes false)
      (s.setRootRec p { r with causes := causes, freeze := some freezeMax, state := .freezing })

/-- The issue of the next step of `p` (R140): STEP handed to the root's own context with AGE 0 (R46), then the limit. -/
def issueStep (p : Part) (s : State) : State :=
  let n := (s.rootRec p).next
  let t := deliverStep p n 0 (s.setRootRec p ((s.rootRec p).issued s.now))
  if n = stepMax then applyLimit p t else t

/-- Whether the pacer issues now (R140, R142): RUNNING or FREEZING, the next issue time reached, the freeze point above
N. -/
def RootRec.issues (r : RootRec) (now : Nat) : Bool :=
  (r.state == .running || r.state == .freezing) &&
    (match r.nextIssue with
     | some t => decide (t ≤ now)
     | none => false) &&
    match r.freeze with
    | some f => decide (r.next < f)
    | none => true

/-- The pacer of `p` at the present RP (R140, R142). -/
def pace (p : Part) (s : State) : State :=
  if s.isRoot && s.locked && (s.rootRec p).issues s.now then withStateNote p (issueStep p) s else s

/-! Resume -/

/-- The freeze point and cause that a count of `n` gives a run whose next step is `next` (R150, R151). -/
def countStop (next n : Nat) (causes : Causes) : Nat × Causes :=
  if freezeMax < next + n then (freezeMax, { causes with limit := true }) else (next + n, { causes with count := true })

/-- A count stops the record after `n` further steps: the record is FREEZING and a FREEZE is made (R150, R151). -/
def applyCount (p : Part) (n : Nat) (s : State) : State :=
  let r := s.rootRec p
  let fc := countStop r.next n r.causes
  deliverRun p (.freeze fc.1 fc.2 false)
    (s.setRootRec p { r with state := .freezing, freeze := some fc.1, causes := fc.2, pendingCount := none })

/-- The partition resumes (R149): RESUME made, the freeze point cleared, a pending count applied, the pacer resumed, and a
STATE note (R156). -/
def resume (p : Part) (s : State) : State :=
  let r := s.rootRec p
  let t := deliverRun p (.resume (r.freeze.getD 0)) (s.setRootRec p { r with freeze := none, state := .running })
  let t :=
    match r.pendingCount with
    | some n => applyCount p n t
    | none => t
  pushStateNote p (if (t.rootRec p).issues t.now then issueStep p t else t)

/-- Whether a record holds a freeze point it has not yet left: FREEZING or FROZEN. -/
def RootRec.stands (r : RootRec) : Bool := r.state == .freezing || r.state == .frozen

/-- The cause set of `p` becomes `causes`; a FREEZING or FROZEN record whose last cause this removes resumes (R149). -/
def removeCauses (p : Part) (causes : Causes) (s : State) : State :=
  let t := s.setRootRec p { s.rootRec p with causes := causes }
  if causes == Causes.none && (s.rootRec p).stands then resume p t else t

/-! Reports -/

/-- A hold ON (R145, R146). -/
def takeHoldOn (p : Part) (m : Nat) (s : State) : State :=
  let r := s.rootRec p
  let causes := { r.causes with stall := true }
  match r.state with
  | .running | .freezing => stopRequest p (r.candidate m) causes (r.leadShort m) s
  | .frozen => s.setRootRec p { r with causes := causes }
  | .idle | .faulted => s

/-- A hold OFF (R146). -/
def takeHoldOff (p : Part) (s : State) : State :=
  let r := s.rootRec p
  match r.state with
  | .running | .freezing | .frozen => if r.causes.stall then removeCauses p { r.causes with stall := false } s else s
  | .idle | .faulted => s

/-- A halt request (R145). -/
def takeHalt (p : Part) (c : Fin 4) (h : HaltReq) (s : State) : State :=
  let r := s.rootRec p
  let causes := { r.causes with trigger := true }
  if r.haltMask.getLsbD c && decide (r.epoch ≤ h.stamp) then
    match r.state with
    | .running | .freezing =>
      let r' := if r.lowers (r.candidate h.stamp) then { r with haltOrigin := some ⟨h.origin, h.line⟩ } else r
      stopRequest p (r.candidate h.stamp) causes (r.leadShort h.stamp) (s.setRootRec p r')
    | .frozen => s.setRootRec p { r with causes := causes }
    | .idle | .faulted => s
  else s

/-- The record that a FAULT report takes to FAULTED (R148). -/
def RootRec.faulted (r : RootRec) (f : FaultReport) : RootRec :=
  { r with
    state := .faulted
    fault := some f
    causes := { r.causes with fault := true }
    freeze := if r.lowers r.next then some r.next else r.freeze
    nextIssue := none }

/-- A FAULT report (R148). -/
def takeFaultReport (p : Part) (f : FaultReport) (s : State) : State :=
  let r := s.rootRec p
  match r.state with
  | .running | .freezing | .frozen =>
    let t := s.setRootRec p (r.faulted f)
    if r.lowers r.next then deliverRun p (.freeze r.next { r.causes with fault := true } false) t else t
  | .idle | .faulted => s

/-- A report reaches the root controller, with the STATE note of its event (R156). A resume makes its own. -/
def takeReport (r : Report) (s : State) : State :=
  match r with
  | .holdOn p m => withStateNote p (takeHoldOn p m) s
  | .holdOff p => takeHoldOff p s
  | .halt p c h => withStateNote p (takeHalt p c h) s
  | .fault p f => withStateNote p (takeFaultReport p f) s

/-- The partition a report concerns. -/
def Report.part : Report → Part
  | .holdOn p _ | .holdOff p | .halt p _ _ | .fault p _ => p

/-- Whether a report is a halt request. -/
def Report.isHalt : Report → Bool
  | .halt .. => true
  | .holdOn .. | .holdOff _ | .fault .. => false

/-- The reports of one command for one partition: halt requests in line order (R117), the others in the order of their
making (R135), the two kinds interleaved freely (R157). -/
def reportsOf (c : Nat) (p : Part) (l : List Report) : List Report :=
  let own := l.filter fun r => r.part == p
  weave c (own.filter Report.isHalt) (own.filter fun r => !r.isHalt)

/-- The reports of one command in the order in which they reach the root controller: those of different partitions
interleave freely (R46). -/
def reportOrder (c : Nat) (l : List Report) : List Report :=
  let k := l.length
  weave (c + 6 * k) (weave (c + 4 * k) (reportsOf c 0 l) (reportsOf (c + k) 1 l))
    (weave (c + 5 * k) (reportsOf (c + 2 * k) 2 l) (reportsOf (c + 3 * k) 3 l))

/-- The reports that a command has made reach the root controller, once its own event is complete (R157). What taking them
makes the root's own context report follows in a further round: a context faults once, so three rounds take all. -/
def settleReports : Nat → State → State
  | 0, s => s.setOwn { s.own with inbox := [] }
  | k + 1, s =>
    match s.own.inbox with
    | [] => s
    | l =>
      settleReports k
        ((reportOrder s.own.choices l).foldl (fun t r => takeReport r t)
          (useChoices (7 * l.length) (s.setOwn { s.own with inbox := [] })))

/-- What closes every command: the reports reach the root controller, the notes the note queue. -/
def settle (s : State) : State := settleNotes 3 (settleReports 3 s)

/-! Commands (8.5), each with its status -/

/-- START (R151). -/
def rootStart (p : Part) (s : State) : State × Status :=
  let r := s.rootRec p
  if r.state ≠ .idle then (s, .badState)
  else if stepMax < r.epoch then (s, .badValue)
  else
    let t := s.setRootRec p
      { r with
        slow := false
        acc := 0
        lastIssued := none
        lastIssueTime := none
        freeze := none
        pendingCount := none
        pendingSwap := none
        fault := none
        haltOrigin := none
        causes := Causes.none }
    let t := deliverRun p (.start r.epoch) t
    let t := t.setRootRec p { t.rootRec p with state := .running, nextIssue := some (s.now + 1) }
    (pushStateNote p (if r.count = 0 then t else applyCount p r.count t), .ok)

/-- PAUSE (R152). -/
def rootPause (p : Part) (s : State) : State × Status :=
  let r := s.rootRec p
  let causes := { r.causes with control := true }
  match r.state with
  | .running | .freezing => (withStateNote p (stopRequest p r.next causes false) s, .ok)
  | .frozen => (s.setRootRec p { r with causes := causes }, .ok)
  | .idle | .faulted => (s, .badState)

/-- CONTINUE (R153). -/
def rootContinue (p : Part) (s : State) : State × Status :=
  let r := s.rootRec p
  match r.state with
  | .faulted => (s, .faulted)
  | .idle | .running => (s, .badState)
  | .freezing | .frozen =>
    if r.causes.limit then (s, .limit)
    else
      let t := s.setRootRec p { r with pendingCount := if r.count = 0 then none else some r.count }
      (removeCauses p { r.causes with control := false, trigger := false, count := false } t, .ok)

/-- ABORT (R154). -/
def rootAbort (p : Part) (s : State) : State × Status :=
  let r := s.rootRec p
  let act (s : State) : State :=
    let t := s.setRootRec p
      { r with
        freeze := none
        causes := Causes.none
        pendingCount := none
        pendingSwap := none
        nextIssue := none
        slow := false
        acc := 0 }
    let t := deliverRun p .abort t
    t.setRootRec p { t.rootRec p with state := .idle }
  (withStateNote p act s, .ok)

/-- SWAP (R155). -/
def rootSwap (p : Part) (s : State) : State × Status :=
  let r := s.rootRec p
  match r.state with
  | .idle | .faulted => (s, .badState)
  | .running | .freezing | .frozen =>
    if stepMax < r.swapStep then (s, .badValue)
    else if r.pendingSwap.isSome then (s, .busy)
    else if r.swapStep < r.next then (s, .tooLate)
    else (deliverRun p (.swap r.swapStep) (s.setRootRec p { r with pendingSwap := some r.swapStep }), .ok)

/-- A FREEZING record becomes FROZEN A RP after the issue of the step before its freeze point (R147). -/
def rootFreeze (p : Part) (s : State) : State :=
  let r := s.rootRec p
  if s.isRoot && s.locked && r.state == .freezing && r.frozenBy s.ma.hub.budget s.now then
    pushStateNote p (s.setRootRec p { r with state := .frozen })
  else s

end Sys2Proof.Machine
end

