-- ==== Sys2Proof/Machine/Links.lean ====
section
/-! DEFINITION. Link ports and reference unit: port transitions (R20 to R27), measurement (R28, R30, R31), enumeration
(R32 to R35), the loss of a link (R36 to R38), the reference unit (R39, R40), and what a port makes of a received cell
(R3, R5 to R7, R21, R23). -/

namespace Sys2Proof.Machine

open Sys2Proof

/-! Conditions -/

/-- Whether D port `n` is enabled (R19). -/
def State.enabled (s : State) (n : Dn) : Bool :=
  s.locked && (s.isRoot || s.isUp .u) && decide (s.lp.depth.getD 3 ≤ 2) && (s.port (.d n)).state != .failed

/-- The condition for leaving DOWN (Table 2-5). -/
def State.condition (s : State) (x : PortId) : Bool :=
  match x with
  | .d n => s.enabled n && (s.port x).signal
  | .u => s.locked && (!s.isRoot || (s.port .u).signal)

/-! Silence -/

/-- A port that falls silent (R19): no cell is left on its link, and its next slot waits for none before it. -/
def Port.silenced (p : Port) : Port := { p with sent := none, nextSlot := 0 }

/-- The six D ports fall silent (R19). -/
def silenceLinks (s : State) : State :=
  let dports : Vector Port 6 := tab fun n => (s.port (.d n)).silenced
  s.setLp { s.lp with dports := dports }

/-- All seven ports fall silent, as they do while the reference unit is not LOCKED (R19, Table 2-4). -/
def silence (s : State) : State := (silenceLinks s).setPort .u (s.port .u).silenced

/-! Entering a state. Link-local work in progress ends with the state it belongs to (R20, R24; log entry 11). -/

/-- A port's link-local work is forgotten: a D port's measuring sequence and waiting ENUM, U's owed ECHO_BACKs. -/
def endWork (x : PortId) (s : State) : State :=
  match x with
  | .d n => s.setDLink n { s.dlink n with measure := Measure.fresh, enumWaiting := false }
  | .u => s.setLp { s.lp with echoes := [] }

/-- TRAINING is entered: a new window and a run of 0 (R21). -/
def enterTraining (x : PortId) (s : State) : State :=
  let t := endWork x s
  t.setPort x { t.port x with state := .training, trainRun := 0, windowFrom := s.now }

/-- DOWN is entered. -/
def enterDown (x : PortId) (s : State) : State :=
  let t := endWork x s
  t.setPort x { t.port x with state := .down }

/-- FAILED is entered, which silences the port (R19) and raises LINK_FAILED (R22, R25). -/
def enterFailed (x : PortId) (s : State) : State :=
  let t := endWork x s
  raise .linkFailed (t.setPort x { (t.port x).silenced with state := .failed })

/-! Loss of a link -/

/-- The address of the child on link `n` (R32). -/
def State.childAddr (s : State) (n : Dn) : Addr := s.ownAddr.child (s.lp.depth.getD 0) n

/-- Whether a context takes part in a CHILD_LINK report (R135). -/
def Context.inRun (c : Context) : Bool :=
  match c.state with
  | .armed | .running | .freezing | .frozen => true
  | .idle | .faulted => false

/-- The CHILD_LINK reports of the loss of link `n`, whose origin is the child's address as the port's ENUM carried it
(R135). -/
def reportChildLoss (n : Dn) (s : State) : State :=
  allParts.foldl
    (fun t p =>
      if t.inMask p n && (t.ctx p).inRun then writeFault p ⟨.childLink, (t.dlink n).child, (t.ctx p).last⟩ t else t) s

/-- D port `n` has left UP: the effects on forwarder, hold unit and step engine, the CHILD_LINK reports ahead of the hold
entries (R37, R53, R135, R134, R83). -/
def lostChild (n : Dn) (s : State) : State :=
  dropChildPace n (dropChildHolds n (reportChildLoss n (emptyEgress n s)))

/-- The controller port has left UP: the upstream queues are discarded (R38). -/
def lostController (s : State) : State := s.setCf { s.cf with noteQ := [], respQ := [] }

/-- LINK_DOWN and LINK_LOSS of a port that has left UP (R42, Table 2-9). -/
def noteLinkDown (x : PortId) (s : State) : State := bump x kLinkLoss (raise .linkDown s)

/-- The reference unit leaves LOCKED or stays out of it: SETTLING at once when its source signal is present, else UNLOCKED
(R39). -/
def State.unlockedRef (s : State) : RefUnit :=
  let source := if s.isRoot then s.ref.refin else s.lp.uport.signal
  if source then { s.ref with state := .settling, timer := 0 } else { s.ref with state := .unlocked, timer := 0 }

/-- The reference unit goes to UNLOCKED; if it was LOCKED every port falls silent (R19) and REF_LOST is raised (R36, R39). -/
def unlock (s : State) : State :=
  let t := s.setRef s.unlockedRef
  if s.locked then raise .refLost (silence t) else t

/-- Every context that is not IDLE is faulted (R36, R40). -/
def faultAll (cause : FaultCause) (s : State) : State := allParts.foldl (fun t p => faultCtx p cause t) s

/-- A port in UP returns to DOWN because its condition has become false (R20, R40). -/
def retireUp (x : PortId) (s : State) : State :=
  let t := noteLinkDown x (enterDown x s)
  match x with
  | .d n => lostChild n t
  | .u => if s.isRoot then lostController t else t

/-- One port follows its condition (R20): out of DOWN when it is true, back to DOWN when it is false. -/
def followCondition (x : PortId) (s : State) : State :=
  match (s.port x).state with
  | .down => if s.condition x then enterTraining x s else s
  | .training | .measuring | .waitEnum => if s.condition x then s else enterDown x s
  | .up => if s.condition x then s else retireUp x s
  | .failed => s

/-- Every port follows its condition, whichever event changed it (R20). U comes first: the D ports' enable rests on it.
DESIGN CHOICE (log entry 34): ports that leave UP in one event do so in the order D0 to D5, so where a hub takes depth 3 (R35)
the FAULT slot keeps the report of the lowest link; the manual gives no order. -/
def followConditions (s : State) : State :=
  allLinks.foldl (fun t n => followCondition (.d n) t) (followCondition .u s)

/-- The effects of the U port of a child leaving UP, and of the loss of its receive signal (R36, R39). -/
def lostUplink (s : State) : State := followConditions (faultAll .uplink (unlock s))

/-- The effects of the reference unit leaving LOCKED other than through R36 (R40): the contexts are faulted, and at the root
their reports taken, before the ports leave UP. So the FREEZE of R148 is queued while its links are UP, and goes uncounted
when their queues are emptied (R158, R53; log entry 18). -/
def lostReference (s : State) : State := followConditions (settleReports 3 (faultAll .reference (unlock s)))

/-- A port in UP leaves it by `enter`, with the effects of R36, R37 or R38 for its kind. -/
def leaveUp (x : PortId) (enter : PortId → State → State) (s : State) : State :=
  let t := noteLinkDown x (enter x s)
  match x with
  | .d n => lostChild n t
  | .u => if s.isRoot then lostController t else lostUplink t

/-! Attempts -/

/-- An attempt fails (R22): counted, and a new window, or FAILED at a D port whose count reaches 15. -/
def failAttempt (x : PortId) (s : State) : State :=
  let a := min 15 ((s.port x).attempts + 1)
  let t := bump x kAttemptFail (s.setPort x { s.port x with attempts := a })
  match x with
  | .d _ => if 15 ≤ a then enterFailed x t else enterTraining x t
  | .u => enterTraining x t

/-- A port enters UP (R21, R31, R33). -/
def enterUp (x : PortId) (s : State) : State :=
  raise .linkUp (s.setPort x { s.port x with state := .up, attempts := 0, badRun := 0 })

/-- A port is aligned (R21). -/
def align (x : PortId) (s : State) : State :=
  match x with
  | .d n =>
    (s.setPort x { s.port x with state := .measuring, badRun := 0 }).setDLink n { s.dlink n with measure := Measure.fresh }
  | .u =>
    if s.isRoot then enterUp .u s else s.setPort .u { s.port .u with state := .waitEnum, badRun := 0 }

/-! Measurement and enumeration -/

/-- The round value of a round-trip time, with C = 6 (R30). -/
def roundValue (rtt : Nat) : Nat := if rtt < 6 then 0 else (rtt - 6 + 1) / 2

/-- The link latency of a measuring sequence (R30). -/
def linkLatency (rtts : List Nat) : Nat := (rtts.map roundValue).foldl max 0

/-- An ENUM for the child of link `n` waits for the port's next slot (R32). DESIGN CHOICE (log entry 29): a refresh and an
update that wait for one slot are one ENUM, since R32 does not say that two are sent. -/
def placeEnum (n : Dn) (s : State) : State :=
  s.setDLink n { s.dlink n with enumWaiting := true, child := s.childAddr n }

/-- D port `n` enters UP with an ENUM for the child waiting (R31, R32). -/
def enterUpD (n : Dn) (s : State) : State :=
  let t := enterUp (.d n) s
  placeEnum n (t.setDLink n { t.dlink n with measure := Measure.fresh, refreshFrom := s.now })

/-- The end of a measuring sequence: link latency (R30) and path latency check (R31). -/
def concludeMeasure (n : Dn) (rtts : List Nat) (s : State) : State :=
  let l := linkLatency rtts
  if 4095 < l then failAttempt (.d n) s
  else
    let t := s.setPort (.d n) { s.port (.d n) with linkLat := l }
    if 16383 < s.lp.pathLat + l then failAttempt (.d n) t
    else enterUpD n (t.setPort (.d n) { t.port (.d n) with pathLat := s.lp.pathLat + l })

/-- An ECHO_BACK at a D port in MEASURING (R28). DESIGN CHOICE (log entry 33): one with the present round's number that arrives
before that round's ECHO has departed has no round-trip time and is discarded. -/
def takeEchoBack (n : Dn) (round : Fin 8) (s : State) : State :=
  let m := (s.dlink n).measure
  match m.sentAt with
  | none => s
  | some t0 =>
    if round = m.round then
      let rtts := m.rtts ++ [s.now - t0]
      if m.round = 7 then concludeMeasure n rtts s
      else s.setDLink n { s.dlink n with measure := ⟨m.round + 1, none, rtts⟩ }
    else s

/-- Whether an ENUM is valid (R33). -/
def enumValid (addr : Addr) (depth lat : Nat) : Bool :=
  addr.namesHub && decide (1 ≤ addr.depth) && depth == addr.depth && decide (lat ≤ 16383)

/-- The hub takes the fields of an ENUM (R33). -/
def takePosition (addr : Addr) (depth lat : Nat) (s : State) : State :=
  let t := s.setLp { s.lp with address := some addr, depth := some depth, pathLat := lat }
  t.setPort .u { t.port .u with pathLat := lat }

/-- A D port in UP after the hub's position has changed: its path latency recomputed and an ENUM waiting, or a failed
attempt when the new path latency is out of range (R32, R34). -/
def reenumerate (s : State) (n : Dn) : State :=
  if s.isUp (.d n) && s.enabled n then
    let lat := s.lp.pathLat + (s.port (.d n)).linkLat
    if 16383 < lat then leaveUp (.d n) failAttempt s
    else placeEnum n (s.setPort (.d n) { s.port (.d n) with pathLat := lat })
  else s

/-- DEPTH_LIMIT of a hub that takes depth 3 (R35). -/
def noteDepth (before after : Option Nat) (s : State) : State :=
  if after = some 3 ∧ before ≠ some 3 then raise .depthLimit s else s

/-- The D ports after the hub's position has changed: each in UP re-enumerates its child (R34), in the order D0 to D5 (DESIGN
CHOICE, log entry 34), but at depth 3 none is enabled and all fall silent (R35, R19). -/
def reposition (s : State) : State :=
  if s.lp.depth = some 3 then silenceLinks s else allLinks.foldl reenumerate s

/-- An ENUM at the U port of a child in WAIT_ENUM or UP (R33, R34, R35). -/
def takeEnum (addr : Addr) (depth lat : Nat) (s : State) : State :=
  if !enumValid addr depth lat then s
  else if s.isUp .u then
    if s.lp.address = some addr ∧ s.lp.depth = some depth ∧ s.lp.pathLat = lat then s
    else
      followConditions
        (noteDepth s.lp.depth (some depth) (reposition (takePosition addr depth lat s)))
  else followConditions (noteDepth none (some depth) (enterUp .u (takePosition addr depth lat s)))

/-- An ECHO at the U port of a child: its ECHO_BACK leaves C = 6 RP later (R29). -/
def takeEcho (round : Fin 8) (s : State) : State :=
  s.setLp { s.lp with echoes := s.lp.echoes ++ [⟨s.now + 6, round⟩] }

/-! Received cells -/

/-- The arrival of a cell on U is kept for the phase of U's slots (R29). -/
def noteArrival (x : PortId) (s : State) : State :=
  match x with
  | .d _ => s
  | .u => s.setLp { s.lp with uArrival := some s.now }

/-- A cell recognised in TRAINING: `counts` says that it is a good IDLE cell; a run of 64 aligns the port (R21). -/
def trainCell (x : PortId) (counts : Bool) (s : State) : State :=
  if counts then
    let t := s.setPort x { s.port x with trainRun := (s.port x).trainRun + 1 }
    if 64 ≤ (s.port x).trainRun + 1 then align x t else t
  else s.setPort x { s.port x with trainRun := 0 }

/-- Whether a good cell of a kind is a role conflict at a port (R6, R25). -/
def State.conflicts (s : State) (x : PortId) (k : Kind) : Bool :=
  match x with
  | .d _ => k.direction == .down
  | .u => k.direction == .up || (s.isRoot && (k == .echo || k == .enum))

/-- Whether Table 1-3 delivers a kind at a port in its present state. -/
def State.delivers (s : State) (x : PortId) (k : Kind) : Bool :=
  match x, (s.port x).state, k with
  | .d _, .measuring, .idle | .d _, .measuring, .echoBack => true
  | .d _, .up, .idle | .d _, .up, .hold | .d _, .up, .haltreq | .d _, .up, .fault | .d _, .up, .pace | .d _, .up, .note
  | .d _, .up, .mrsp => true
  | .u, .waitEnum, .idle | .u, .waitEnum, .echo | .u, .waitEnum, .enum => !s.isRoot
  | .u, .up, .idle | .u, .up, .mreq => true
  | .u, .up, .echo | .u, .up, .enum | .u, .up, .step | .u, .up, .start | .u, .up, .freeze | .u, .up, .resume
  | .u, .up, .abort | .u, .up, .swap => !s.isRoot
  | _, _, _ => false

/-- A role conflict at a port (R25). -/
def roleConflict (x : PortId) (s : State) : State :=
  let t := raise .roleConflict s
  if s.isUp x then leaveUp x enterFailed t else enterFailed x t

/-- A good cell sets the bad-cell run to 0 (R23). -/
def clearBadRun (x : PortId) (s : State) : State := s.setPort x { s.port x with badRun := 0 }

/-- A good cell of a defined kind in an aligned state: a role conflict, delivered, or discarded (R6, R7). -/
def judgeCell (x : PortId) (k : Kind) (act : State → State) (s : State) : State :=
  if s.conflicts x k then roleConflict x s
  else if s.delivers x k then act (clearBadRun x s)
  else if x = .u ∧ s.isRoot then bump x kUnknownKind (clearBadRun x s)
  else clearBadRun x s

/-- A good cell of a defined kind reaches a port, where `act` is what its delivery does: ignored in DOWN and FAILED (R26),
counted in TRAINING (R21), judged in an aligned state. -/
def receive (x : PortId) (k : Kind) (act : State → State) (s : State) : State :=
  match (s.port x).state with
  | .down | .failed => s
  | .training => trainCell x (k == .idle) (noteArrival x s)
  | .measuring | .waitEnum | .up => judgeCell x k act (noteArrival x s)

/-- A bad cell in an aligned state (R3, R23). -/
def badAligned (x : PortId) (s : State) : State :=
  let t := bump x kBadCheck (s.setPort x { s.port x with badRun := (s.port x).badRun + 1 })
  if 4 ≤ (s.port x).badRun + 1 then if s.isUp x then leaveUp x enterTraining t else failAttempt x t else t

/-- A cell that fails CHECK reaches a port (R3, R21). -/
def receiveBad (x : PortId) (s : State) : State :=
  match (s.port x).state with
  | .down | .failed => s
  | .training => trainCell x false (noteArrival x s)
  | .measuring | .waitEnum | .up => badAligned x (noteArrival x s)

/-- A good cell of an undefined kind reaches a port (R5, R21, R23). -/
def receiveUnknown (x : PortId) (s : State) : State :=
  match (s.port x).state with
  | .down | .failed => s
  | .training => trainCell x false (noteArrival x s)
  | .measuring | .waitEnum | .up => bump x kUnknownKind (clearBadRun x (noteArrival x s))

/-! Signals and the reference unit -/

/-- The signal detector of a receive pair, or of REFIN, reports (2.2). -/
def setSignal (src : SignalSource) (v : Bool) (s : State) : State :=
  match src with
  | .pair x => s.setPort x { s.port x with signal := v }
  | .refin => s.setRef { s.ref with refin := v }

/-- Whether a signal is the reference unit's source (2.8). -/
def State.isSource (s : State) (src : SignalSource) : Bool :=
  match src with
  | .refin => s.isRoot
  | .pair .u => !s.isRoot
  | .pair (.d _) => false

/-- *Signal present* (R24, R39): an UNLOCKED reference unit whose source it is starts settling; the ports follow their
conditions. -/
def signalPresent (src : SignalSource) (s : State) : State :=
  let t := setSignal src true s
  let t :=
    if s.isSource src && s.ref.state == .unlocked then t.setRef { t.ref with state := .settling, timer := 0 } else t
  followConditions t

/-- *Signal lost* on a receive pair takes its port to DOWN unless it is DOWN or FAILED (R24). `unlinked` says what a port
leaving UP does. -/
def lostSignalPort (x : PortId) (s : State) : State :=
  match (s.port x).state with
  | .down | .failed => s
  | .training | .measuring | .waitEnum => enterDown x s
  | .up =>
    let t := noteLinkDown x (enterDown x s)
    match x with
    | .d n => lostChild n t
    | .u => if s.isRoot then lostController t else t

/-- *Signal lost* (R24, R39): the port goes to DOWN; at the reference unit's source a LOCKED unit is lost with the effects
of R36 at a child and of R40 at the root, and a SETTLING one returns to UNLOCKED. -/
def signalLost (src : SignalSource) (s : State) : State :=
  let t := setSignal src false s
  let t :=
    match src with
    | .pair x => lostSignalPort x t
    | .refin => t
  if s.isSource src then
    match s.ref.state with
    | .unlocked => t
    | .settling => t.setRef { t.ref with state := .unlocked, timer := 0 }
    | .locked => if s.isRoot then lostReference t else lostUplink t
  else t

end Sys2Proof.Machine
end

