-- ==== Sys2Proof/Machine/Scheduling.lean ====
section
/-! DEFINITION. What each port sends in a cell slot: which ports transmit (R19, Table 2-4), the downstream scheduler (R52,
R55), the upstream scheduler (R58), and the bytes on a link (R2). -/

namespace Sys2Proof.Machine

open Sys2Proof

/-- Whether a port transmits cells, or no signal at all (R19, Table 2-4, R168). -/
def State.transmits (s : State) (x : PortId) : Bool :=
  !s.porst &&
  match x with
  | .d n => s.enabled n
  | .u =>
    s.locked &&
    match (s.port .u).state with
    | .failed => false
    | .down => s.isRoot
    | .training | .measuring | .waitEnum | .up => true

/-- The sixteen bytes a port has on its link in the present slot, none where it transmits no signal (R19, R2). -/
def State.wire (s : State) (x : PortId) : Option (List Byte) :=
  if s.transmits x then (s.port x).sent.map Cell.bytes else none

/-- A cell goes out in the slot that begins now; the next slot is 2 RP later (R19). -/
def sendCell (x : PortId) (c : Cell) (s : State) : State :=
  s.setPort x { s.port x with sent := some c, nextSlot := s.now + 2 }

/-! Downstream (R52) -/

/-- The ENUM that D port `n` sends (R32, Table 2-7). DESIGN CHOICE (log entry 29): its fields are read when it leaves. -/
def State.enumCell (s : State) (n : Dn) : Cell :=
  .enum (s.childAddr n) (s.lp.depth.getD 0 + 1) (s.port (.d n)).pathLat

/-- The waiting ENUM leaves; the refresh interval counts from it (R32). -/
def sendEnum (n : Dn) (s : State) : State :=
  let t := sendCell (.d n) (s.enumCell n) s
  t.setDLink n { t.dlink n with enumWaiting := false, refreshFrom := s.now }

/-- The slot of a D port in UP: ENUM, urgent, step, management, IDLE (R52); a STEP leaves with its AGE rewritten (R55). -/
def upSlotD (n : Dn) (s : State) : State :=
  let g := s.egress n
  if (s.dlink n).enumWaiting then sendEnum n s
  else
    match g.urgent, g.steps, g.mgmt with
    | u :: us, _, _ => sendCell (.d n) (.run u.part u.run) (s.setEgress n { g with urgent := us })
    | [], c :: cs, _ => sendCell (.d n) (.step c.part c.step (s.ageOut c)) (shrinkSteps n cs s)
    | [], [], r :: rs => sendCell (.d n) (.mreq r) (s.setEgress n { g with mgmt := rs })
    | [], [], [] => sendCell (.d n) .idle s

/-- The slot of a D port in MEASURING: the ECHO of the round, or IDLE (R28). -/
def measureSlot (n : Dn) (s : State) : State :=
  let m := (s.dlink n).measure
  match m.sentAt with
  | some _ => sendCell (.d n) .idle s
  | none =>
    (sendCell (.d n) (.echo m.round) s).setDLink n { s.dlink n with measure := { m with sentAt := some s.now } }

/-- A cell slot of D port `n` begins now (R19, R52, Table 2-4). -/
def slotD (n : Dn) (s : State) : State :=
  if s.transmits (.d n) && decide ((s.port (.d n)).nextSlot ≤ s.now) then
    match (s.port (.d n)).state with
    | .up => upSlotD n s
    | .measuring => measureSlot n s
    | .down | .training | .waitEnum => sendCell (.d n) .idle s
    | .failed => s
  else s

/-! Upstream (R58) -/

/-- The partitions in the order in which the upstream scheduler looks at them (R58). -/
def State.searchOrder (s : State) : List Part := [1, 2, 3, 4].map fun k => Fin.ofNat 4 (s.cf.lastServed.val + k)

/-- Whether any of the four HALTREQ slots is pending, and the first class that is (R58). -/
def Slots.firstHalt (t : Slots) : Option (Fin 4 × HaltReq) :=
  ([0, 1, 2, 3] : List (Fin 4)).findSome? fun c => (look t.haltreq c).map fun h => (c, h)

/-- Whether a partition has any pending slot (R58). -/
def Slots.pending (t : Slots) : Bool := t.fault.isSome || t.firstHalt.isSome || t.hold.isSome || t.pace.isSome

/-- The first pending slot of `p` in the order FAULT, HALTREQ 0 to 3, HOLD, PACE is sent and emptied; a HOLD sets the
reported state (R56, R58). -/
def sendSlot (p : Part) (s : State) : State :=
  let t := s.slots p
  match t.fault, t.firstHalt, t.hold, t.pace with
  | some r, _, _, _ => sendCell .u (.fault p r) (s.setSlots p { t with fault := none })
  | none, some (c, h), _, _ => sendCell .u (.haltreq p c h) (s.setSlots p { t with haltreq := upd t.haltreq c none })
  | none, none, some (.on m), _ => sendCell .u (.hold p (some m)) (s.setSlots p { t with hold := none, reported := true })
  | none, none, some .off, _ => sendCell .u (.hold p none) (s.setSlots p { t with hold := none, reported := false })
  | none, none, none, some v => sendCell .u (.pace p v) (s.setSlots p { t with pace := none })
  | none, none, none, none => s

/-- The heads of the note and response queues, then IDLE (R58). -/
def sendQueued (s : State) : State :=
  match s.cf.noteQ, s.cf.respQ with
  | n :: ns, _ => sendCell .u (.note n) (s.setCf { s.cf with noteQ := ns })
  | [], r :: rs => sendCell .u (.mrsp r) (s.setCf { s.cf with respQ := rs })
  | [], [] => sendCell .u .idle s

/-- The slot of a child's U in UP, no ECHO_BACK being due (R58). -/
def upSlotU (s : State) : State :=
  match s.searchOrder.find? fun p => (s.slots p).pending with
  | some p => sendSlot p (s.setCf { s.cf with lastServed := p })
  | none => sendQueued s

/-- The ECHO_BACK whose departure has come, if there is one (R29). -/
def State.echoNow (s : State) : Option EchoDue :=
  match s.lp.echoes with
  | e :: _ => if e.due ≤ s.now then some e else none
  | [] => none

/-- A due ECHO_BACK goes ahead of every other cell (R29), else `other`. -/
def echoOr (other : State → State) (s : State) : State :=
  match s.echoNow with
  | some e => sendCell .u (.echoBack e.round) (s.setLp { s.lp with echoes := s.lp.echoes.drop 1 })
  | none => other s

/-- Whether a slot of U may begin now: 2 RP after the one before, and at a child an even number of RP after the arrival
time of the cells it receives (R19, R29). DESIGN CHOICE (log entry 24): that is the last arrival noted, which a loss of the
reference, a hub reset and a new training keep until the next; before any arrival a slot may begin at every RP. -/
def State.slotDueU (s : State) : Bool :=
  decide ((s.port .u).nextSlot ≤ s.now) &&
    match s.lp.uArrival with
    | some t => s.isRoot || (s.now - t) % 2 == 0
    | none => true

/-- A cell slot of U begins now (R58, Table 2-4). -/
def slotU (s : State) : State :=
  if s.transmits .u && s.slotDueU then
    match (s.port .u).state with
    | .up => if s.isRoot then sendQueued s else echoOr upSlotU s
    | .waitEnum => echoOr (sendCell .u .idle) s
    | .down | .training | .measuring => sendCell .u .idle s
    | .failed => s
  else s

end Sys2Proof.Machine
end

