-- ==== Sys2Proof/Machine/Operands.lean ====
section
/-! DEFINITION. The object directory (Table 9-1): which objects, indices, fields and commands there are (R160), and what
each field reads as (R161). -/

namespace Sys2Proof.Machine

open Sys2Proof

/-- The number of indices of an object, 0 for a code that is no object (Table 9-1). -/
def indexCount (object : Nat) : Nat :=
  match object with
  | 0x01 => 1
  | 0x02 => 1
  | 0x03 => 7
  | 0x04 => 4
  | 0x05 => 4
  | 0x06 => 16
  | 0x07 => 32
  | 0x08 => 16
  | 0x09 => 8
  | 0x0A => 4
  | 0x0B => 16
  | 0x0C => 59
  | 0x0D => 1
  | 0x0E => 4
  | _ => 0

/-- The number of fields of an object (Table 9-1). -/
def fieldCount (object : Nat) : Nat :=
  match object with
  | 0x01 => 7
  | 0x02 => 4
  | 0x03 => 4
  | 0x04 => 2
  | 0x05 => 14
  | 0x06 => 5
  | 0x07 => 5
  | 0x08 => 5
  | 0x09 => 10
  | 0x0A => 7
  | 0x0B => 6
  | 0x0C => 1
  | 0x0D => 2
  | 0x0E => 24
  | _ => 0

/-- Whether a field can be written (the Access column of Table 9-1). -/
def writable (object field : Nat) : Bool :=
  match object with
  | 0x02 => decide (field ≤ 3)
  | 0x04 => decide (field ≤ 1)
  | 0x06 => decide (field = 0)
  | 0x07 => decide (field ≤ 4)
  | 0x08 => decide (field ≤ 3)
  | 0x09 => decide (field ≤ 6)
  | 0x0A => decide (field ≤ 2)
  | 0x0C => decide (field = 0)
  | 0x0D => decide (field ≤ 1)
  | 0x0E => decide (6 ≤ field) && decide (field ≤ 13)
  | _ => false

/-- Whether an object has a command code (Table 9-2). -/
def commandCode (object code : Nat) : Bool :=
  match object with
  | 0x02 => decide (code = 1)
  | 0x03 => decide (code = 1) || decide (code = 2)
  | 0x0E => decide (1 ≤ code) && decide (code ≤ 5)
  | _ => false

/-- Whether an operation is defined for an object and field, or command code (R160 step 4). -/
def opDefined (op : Op) (object field : Nat) : Bool :=
  match op with
  | .read => decide (field < fieldCount object)
  | .write => writable object field
  | .pop => decide (object = 0x0B)
  | .cmd => commandCode object field

/-- Steps 1 to 4 of R160: the status that refuses a request before its own rule is asked, none if it passes. -/
def State.refusal (s : State) (r : Request) : Option Status :=
  if indexCount r.object.toNat = 0 then some .badObject
  else if r.object.toNat = 0x0E ∧ s.isRoot = false then some .notRoot
  else if indexCount r.object.toNat ≤ r.index.toNat then some .badIndex
  else if !opDefined r.op r.object.toNat r.field.toNat then some .badField
  else none

/-! Encodings of R161 -/

/-- What an absent field reads as (R161). -/
def absentValue : Nat := 0x80000000

/-- A flag as 0 or 1. -/
def flag (b : Bool) : Nat := if b then 1 else 0

/-- The high field of a step number, bits 39..32 (R161). -/
def hi (n : Nat) : Nat := n / 4294967296

/-- The low field of a step number, bits 31..0 (R161). -/
def lo (n : Nat) : Nat := n % 4294967296

/-- The high field of a step number that may be absent (R161). -/
def hiOpt (o : Option Nat) : Nat :=
  match o with
  | some n => hi n
  | none => absentValue

/-- The low field of a step number that may be absent (R161). -/
def loOpt (o : Option Nat) : Nat :=
  match o with
  | some n => lo n
  | none => 0

/-- A field that may be absent (R161). -/
def orAbsent (o : Option Nat) : Nat := o.getD absentValue

/-- The code of a port state (Table 9-1). -/
def PortState.code : PortState → Nat
  | .down => 0
  | .training => 1
  | .measuring => 2
  | .waitEnum => 3
  | .up => 4
  | .failed => 5

/-- The code of a context state (Table 9-1). -/
def CtxState.code : CtxState → Nat
  | .idle => 0
  | .armed => 1
  | .running => 2
  | .freezing => 3
  | .frozen => 4
  | .faulted => 5

/-- The code of a domain entry's mode (Table 5-2). -/
def EntryMode.code : EntryMode → Nat
  | .clock => 0
  | .heldLow => 1
  | .heldHigh => 2

/-- The code of a trigger line's mode (Table 6-1). -/
def TrigMode.code : TrigMode → Nat
  | .rise => 0
  | .fall => 1
  | .high => 2
  | .low => 3

/-- The port of LINK index `i`, 0..5 for D0..D5 and 6 for U (R18). -/
def portOf (i : Nat) : PortId := if h : i < 6 then .d ⟨i, h⟩ else .u

/-! The fields of each object -/

def readIdent (s : State) (f : Nat) : Nat :=
  match f with
  | 0 => 0x5744
  | 1 => 0x0460
  | 2 => 0x0001
  | 3 => flag s.isRoot
  | 4 => orAbsent s.lp.depth
  | 5 => orAbsent (s.lp.address.map BitVec.toNat)
  | _ =>
    match s.ma.resetCause with
    | .powerOn => 0
    | .hubReset => 1

def readHub (s : State) (f : Nat) : Nat :=
  match f with
  | 0 => s.ma.hub.budget
  | 1 => flag s.ma.hub.keepNewest
  | 2 => s.ma.hub.high
  | _ => s.ma.hub.low

def readLink (s : State) (i f : Nat) : Nat :=
  let p := s.port (portOf i)
  match f with
  | 0 => p.state.code
  | 1 => p.attempts
  | 2 => p.linkLat
  | _ => p.pathLat

def readRoute (s : State) (i f : Nat) : Nat :=
  let r := s.route (Fin.ofNat 4 i)
  match f with
  | 0 => r.mask.toNat
  | _ => flag r.isLocal

def readPartition (s : State) (i f : Nat) : Nat :=
  let c := s.ctx (Fin.ofNat 4 i)
  match f with
  | 0 => c.state.code
  | 1 => hi c.epoch
  | 2 => lo c.epoch
  | 3 => hi c.expected
  | 4 => lo c.expected
  | 5 => hiOpt c.last
  | 6 => loOpt c.last
  | 7 => hiOpt c.freeze
  | 8 => loOpt c.freeze
  | 9 => c.causes.code
  | 10 => orAbsent (c.fault.map FaultCause.code)
  | 11 => c.second
  | 12 => c.queue.length
  | _ => flag c.pace

def readDomainSlot (s : State) (i f : Nat) : Nat :=
  let p := look s.dg.slots (Fin.ofNat 16 i)
  match f with
  | 0 => p.val
  | 1 => flag (s.dpart p).bank
  | 2 => (s.dpart p).swaps.length
  | 3 => hiOpt (s.dpart p).swaps.head?
  | _ => loOpt (s.dpart p).swaps.head?

def readDomainEntry (s : State) (i f : Nat) : Nat :=
  let e := look s.dg.entries (Fin.ofNat 32 i)
  match f with
  | 0 => e.mode.code
  | 1 => e.period
  | 2 => e.phase
  | 3 => e.duty
  | _ => flag e.anchorSwap

def readOutput (s : State) (i f : Nat) : Nat :=
  let o := s.out (Fin.ofNat 16 i)
  match f with
  | 0 => flag o.domain
  | 1 => o.slot.val
  | 2 => flag o.invert
  | 3 => flag o.rest
  | _ => flag o.level

def readTrigger (s : State) (i f : Nat) : Nat :=
  let l := s.trig (Fin.ofNat 8 i)
  match f with
  | 0 => flag l.enable
  | 1 => l.part.val
  | 2 => l.mode.code
  | 3 => l.target
  | 4 => flag l.repeats
  | 5 => flag l.halts
  | 6 => l.cls.val
  | 7 => l.count
  | 8 => l.fired
  | _ => orAbsent ((s.prev l.part (Fin.ofNat 8 i)).map flag)

def readStall (s : State) (i f : Nat) : Nat :=
  let l := s.stall (Fin.ofNat 4 i)
  let e := look (s.table l.part).entries (stallEntry (Fin.ofNat 4 i))
  match f with
  | 0 => flag l.enable
  | 1 => l.part.val
  | 2 => flag l.activeLow
  | 3 => flag l.qualified
  | 4 => flag e.isSome
  | 5 => hiOpt e
  | _ => loOpt e

/-- A field of the capture table: the occupancy, or a field of record `i`, none where there is no such record (R122). -/
def readCapture (s : State) (i f : Nat) : Option Nat :=
  if f = 5 then some s.tu.captures.length
  else
    s.tu.captures[i]?.map fun c =>
      match f with
      | 0 => c.line.val
      | 1 => c.part.val
      | 2 => hi c.step
      | 3 => lo c.step
      | _ => c.occurrence

def readCounter (s : State) (i : Nat) : Nat :=
  if i < 56 then look (s.port (portOf (i / 8))).counters (Fin.ofNat 8 i) else look s.ma.counters (Fin.ofNat 3 (i - 56))

def readEvents (s : State) (f : Nat) : Nat :=
  match f with
  | 0 => s.ma.latches.toNat
  | _ => s.ma.enables.toNat

def readRoot (s : State) (i f : Nat) : Nat :=
  let r := s.rootRec (Fin.ofNat 4 i)
  match f with
  | 0 => r.state.code
  | 1 => r.causes.code
  | 2 => hiOpt r.freeze
  | 3 => loOpt r.freeze
  | 4 => hiOpt r.lastIssued
  | 5 => loOpt r.lastIssued
  | 6 => hi r.epoch
  | 7 => lo r.epoch
  | 8 => r.count
  | 9 => hi r.swapStep
  | 10 => lo r.swapStep
  | 11 => r.period
  | 12 => r.lead
  | 13 => r.haltMask.toNat
  | 14 => flag r.slow
  | 15 => orAbsent r.pendingCount
  | 16 => hiOpt r.pendingSwap
  | 17 => loOpt r.pendingSwap
  | 18 => orAbsent (r.fault.map fun f => f.cause.code)
  | 19 => orAbsent (r.fault.map fun f => f.origin.toNat)
  | 20 => hiOpt (r.fault.bind FaultReport.last)
  | 21 => loOpt (r.fault.bind FaultReport.last)
  | 22 => orAbsent (r.haltOrigin.map fun h => h.origin.toNat)
  | _ => orAbsent (r.haltOrigin.map fun h => h.line.val)

/-- What a field reads as; none where R122 refuses the index (Table 9-1). -/
def State.read (s : State) (object i f : Nat) : Option Nat :=
  match object with
  | 0x01 => some (readIdent s f)
  | 0x02 => some (readHub s f)
  | 0x03 => some (readLink s i f)
  | 0x04 => some (readRoute s i f)
  | 0x05 => some (readPartition s i f)
  | 0x06 => some (readDomainSlot s i f)
  | 0x07 => some (readDomainEntry s i f)
  | 0x08 => some (readOutput s i f)
  | 0x09 => some (readTrigger s i f)
  | 0x0A => some (readStall s i f)
  | 0x0B => readCapture s i f
  | 0x0C => some (readCounter s i)
  | 0x0D => some (readEvents s f)
  | _ => some (readRoot s i f)

end Sys2Proof.Machine
end

