-- ==== Sys2Proof/Machine/Agent.lean ====
section
/-! DEFINITION. The management agent: the taking of a request (R159), its outcome and response (R160, R12), and the writes,
pops and commands of each object by their owning rules. An answer is the state, the status and the response VALUE. -/

namespace Sys2Proof.Machine

open Sys2Proof

/-- What an executed request leaves: state, status, VALUE. -/
structure Answer where
  state : State
  status : Status
  value : Nat

/-- A value taken, answered OK with the value held. -/
def taken (s : State) (v : Nat) : Answer := ⟨s, .ok, v⟩

/-- A refusal: nothing changes and VALUE is zero (R12). -/
def refused (s : State) (st : Status) : Answer := ⟨s, st, 0⟩

/-- A value taken, answered CLAMPED where it was adjusted (R161). -/
def clamped (s : State) (written held : Nat) : Answer := ⟨s, if written = held then .ok else .clamped, held⟩

/-- A number brought into a range. -/
def clampTo (a b v : Nat) : Nat := max a (min b v)

/-- Whether a partition's context is IDLE at this hub. -/
def State.idleAt (s : State) (p : Part) : Bool := (s.ctx p).state == .idle

/-- Whether a partition value names a partition whose context is not IDLE (R89, R112, R125). -/
def State.namesBusy (s : State) (v : Nat) : Bool := if h : v < 4 then !s.idleAt ⟨v, h⟩ else false

/-! ROUTE (R44) -/

def writeRoute (p : Part) (f v : Nat) (s : State) : Answer :=
  if !s.idleAt p then refused s .inUse
  else
    match f with
    | 0 =>
      if v ≤ 63 then taken (settlePace p (s.setRoute p { s.route p with mask := BitVec.ofNat 6 v })) v
      else refused s .badValue
    | _ => if v ≤ 1 then taken (s.setRoute p { s.route p with isLocal := v == 1 }) v else refused s .badValue

/-! DOMAIN_SLOT (R89) -/

def writeDomainSlot (i : Fin 16) (v : Nat) (s : State) : Answer :=
  if !s.idleAt (look s.dg.slots i) || s.namesBusy v then refused s .inUse
  else if h : v < 4 then taken (s.setDg { s.dg with slots := upd s.dg.slots i ⟨v, h⟩ }) v
  else refused s .badValue

/-! DOMAIN_ENTRY (R91, R92) -/

/-- Whether entry `i` stands in the active bank of its slot's partition while that partition is not IDLE (R92). -/
def State.entryInUse (s : State) (i : Fin 32) : Bool :=
  let p := look s.dg.slots (Fin.ofNat 16 i.val)
  (s.dpart p).bank == decide (16 ≤ i.val) && !s.idleAt p

def setEntryField (i : Fin 32) (e : DomainEntry) (s : State) : State :=
  s.setDg { s.dg with entries := upd s.dg.entries i e }

def writeDomainEntry (i : Fin 32) (f v : Nat) (s : State) : Answer :=
  let e := look s.dg.entries i
  if s.entryInUse i then refused s .inUse
  else
    match f with
    | 0 =>
      match v with
      | 0 => taken (setEntryField i { e with mode := .clock } s) v
      | 1 => taken (setEntryField i { e with mode := .heldLow } s) v
      | 2 => taken (setEntryField i { e with mode := .heldHigh } s) v
      | _ => refused s .badValue
    | 1 => if 2 ≤ v ∧ v ≤ 65535 then taken (setEntryField i { e with period := v } s) v else refused s .badValue
    | 2 => clamped (setEntryField i { e with phase := min 65535 v } s) v (min 65535 v)
    | 3 => clamped (setEntryField i { e with duty := clampTo 1 63 v } s) v (clampTo 1 63 v)
    | _ => if v ≤ 1 then taken (setEntryField i { e with anchorSwap := v == 1 } s) v else refused s .badValue

/-! OUTPUT (R104) -/

/-- Whether a line in DOMAIN mode on its slot follows a partition that is not IDLE (R104). -/
def State.lineBusy (s : State) (o : OutLine) : Bool := o.domain && !s.idleAt (look s.dg.slots o.slot)

/-- The line a write would leave, none for a value outside the field's range (Table 5-5). -/
def OutLine.written (o : OutLine) (f v : Nat) : Option OutLine :=
  match f with
  | 0 => if v ≤ 1 then some { o with domain := v == 1 } else none
  | 1 => if h : v < 16 then some { o with slot := ⟨v, h⟩ } else none
  | 2 => if v ≤ 1 then some { o with invert := v == 1 } else none
  | _ => if v ≤ 1 then some { o with rest := v == 1 } else none

def writeOutput (i : Fin 16) (f v : Nat) (s : State) : Answer :=
  let o := s.out i
  if s.lineBusy o then refused s .inUse
  else
    match o.written f v with
    | none => refused s .badValue
    | some q => if s.lineBusy q then refused s .inUse else taken (s.setOut i q.atRest) v

/-! TRIGGER (R112) -/

/-- A write of target N, taken or clamped: a count at or above it becomes 0 (R112). -/
def TrigLine.withTarget (l : TrigLine) (n : Nat) : TrigLine :=
  { l with target := n, count := if n ≤ l.count then 0 else l.count }

/-- A WRITE to a trigger line (R112). DESIGN CHOICE (log entry 30): a partition value above 3 written while the context of
the bound partition is not IDLE answers IN_USE, ahead of BAD_VALUE; R112 gives the two no order. -/
def writeTrigger (i : Fin 8) (f v : Nat) (s : State) : Answer :=
  let l := s.trig i
  match f with
  | 0 =>
    if v ≤ 1 then
      let t := s.setTrig i { l with enable := v == 1 }
      taken (if v = 1 ∧ l.enable = false then setPrev l.part i none t else t) v
    else refused s .badValue
  | 1 =>
    if !s.idleAt l.part || s.namesBusy v then refused s .inUse
    else if h : v < 4 then taken (s.setTrig i { l with part := ⟨v, h⟩ }) v
    else refused s .badValue
  | 2 =>
    match v with
    | 0 => taken (s.setTrig i { l with mode := .rise }) v
    | 1 => taken (s.setTrig i { l with mode := .fall }) v
    | 2 => taken (s.setTrig i { l with mode := .high }) v
    | 3 => taken (s.setTrig i { l with mode := .low }) v
    | _ => refused s .badValue
  | 3 => clamped (s.setTrig i (l.withTarget (clampTo 1 65535 v))) v (clampTo 1 65535 v)
  | 4 => if v ≤ 1 then taken (s.setTrig i { l with repeats := v == 1 }) v else refused s .badValue
  | 5 => if v ≤ 1 then taken (s.setTrig i { l with halts := v == 1 }) v else refused s .badValue
  | _ => if h : v < 4 then taken (s.setTrig i { l with cls := ⟨v, h⟩ }) v else refused s .badValue

/-! STALL (R125) -/

/-- A WRITE to a stall line (R125). DESIGN CHOICE (log entry 30): a partition value above 3 written while the context of the
bound partition is not IDLE answers IN_USE, ahead of BAD_VALUE; R125 gives the two no order. -/
def writeStall (i : Fin 4) (f v : Nat) (s : State) : Answer :=
  let l := s.stall i
  match f with
  | 0 =>
    if v ≤ 1 then
      let t := s.setStall i { l with enable := v == 1 }
      taken (if v = 0 ∧ l.enable then setEntry l.part (stallEntry i) none t else t) v
    else refused s .badValue
  | 1 =>
    if !s.idleAt l.part || s.namesBusy v then refused s .inUse
    else if h : v < 4 then taken (s.setStall i { l with part := ⟨v, h⟩ }) v
    else refused s .badValue
  | _ => if v ≤ 1 then taken (s.setStall i { l with activeLow := v == 1 }) v else refused s .badValue

/-! HUB (R164, R123) -/

def setHub (h : HubSettings) (s : State) : State := s.setMa { s.ma with hub := h }

/-- The settings after a write of the high water mark (R164). -/
def HubSettings.withHigh (h : HubSettings) (v : Nat) : HubSettings :=
  { h with high := clampTo 2 127 v, low := if clampTo 2 127 v ≤ h.low then clampTo 2 127 v - 1 else h.low }

def writeHub (f v : Nat) (s : State) : Answer :=
  let h := s.ma.hub
  match f with
  | 0 =>
    if allParts.any fun p => !s.idleAt p then refused s .inUse
    else clamped (setHub { h with budget := clampTo 64 16383 v } s) v (clampTo 64 16383 v)
  | 1 => if v ≤ 1 then taken (setHub { h with keepNewest := v == 1 } s) v else refused s .badValue
  | 2 =>
    let h' := h.withHigh v
    ⟨setHub h' s, if h'.high = v ∧ h'.low = h.low then .ok else .clamped, h'.high⟩
  | _ => clamped (setHub { h with low := clampTo 1 (h.high - 1) v } s) v (clampTo 1 (h.high - 1) v)

/-! COUNTER (R167) and EVENTS (R165) -/

def writeCounter (i : Nat) (s : State) : Answer :=
  if i < 56 then
    let p := s.port (portOf (i / 8))
    taken (s.setPort (portOf (i / 8)) { p with counters := upd p.counters (Fin.ofNat 8 i) 0 }) 0
  else taken (s.setMa { s.ma with counters := upd s.ma.counters (Fin.ofNat 3 (i - 56)) 0 }) 0

def writeEvents (f v : Nat) (s : State) : Answer :=
  if 0xFFFF < v then refused s .badValue
  else
    match f with
    | 0 =>
      let l := s.ma.latches &&& ~~~(BitVec.ofNat 16 v)
      taken (s.setMa { s.ma with latches := l }) l.toNat
    | _ => taken (s.setMa { s.ma with enables := BitVec.ofNat 16 v }) v

/-! CAPTURE (R122) -/

def popCapture (s : State) : Answer :=
  match s.tu.captures with
  | [] => taken s 0
  | _ :: cs => taken (s.setTu { s.tu with captures := cs }) 1

/-! ROOT_PARTITION (R139) -/

/-- A step number with its high field replaced (R161). -/
def withHi (n v : Nat) : Nat := v * 4294967296 + lo n

/-- A step number with its low field replaced (R161). -/
def withLo (n v : Nat) : Nat := hi n * 4294967296 + v

/-- A WRITE to a root partition record (R139). DEDUCED (log entry 30): an epoch high field above 255 written to a record that
is not IDLE answers IN_USE, ahead of BAD_VALUE. -/
def writeRoot (p : Part) (f v : Nat) (s : State) : Answer :=
  let r := s.rootRec p
  match f with
  | 6 =>
    if r.state ≠ .idle then refused s .inUse
    else if v ≤ 255 then taken (s.setRootRec p { r with epoch := withHi r.epoch v }) v
    else refused s .badValue
  | 7 =>
    if r.state ≠ .idle then refused s .inUse else taken (s.setRootRec p { r with epoch := withLo r.epoch v }) v
  | 8 => taken (s.setRootRec p { r with count := v }) v
  | 9 =>
    if v ≤ 255 then taken (s.setRootRec p { r with swapStep := withHi r.swapStep v }) v else refused s .badValue
  | 10 => taken (s.setRootRec p { r with swapStep := withLo r.swapStep v }) v
  | 11 => clamped (s.setRootRec p { r with period := clampTo 256 1048575 v }) v (clampTo 256 1048575 v)
  | 12 => clamped (s.setRootRec p { r with lead := clampTo 1 4095 v }) v (clampTo 1 4095 v)
  | _ =>
    if v ≤ 15 then taken (s.setRootRec p { r with haltMask := BitVec.ofNat 4 v }) v else refused s .badValue

/-- A root command answered with the state code of the record after it (R162). -/
def rootCommand (p : Part) (cmd : State → State × Status) (s : State) : Answer :=
  let t := cmd s
  if t.2 = .ok then taken t.1 (t.1.rootRec p).state.code else refused t.1 t.2

/-! LINK (R27, R53) -/

/-- RETRAIN of D port `n` (R27). -/
def retrain (n : Dn) (s : State) : State :=
  let t := if s.isUp (.d n) then leaveUp (.d n) enterDown s else enterDown (.d n) s
  followCondition (.d n) (t.setPort (.d n) { t.port (.d n) with attempts := 0 })

def commandRetrain (i : Nat) (s : State) : Answer :=
  if h : i < 6 then taken (retrain ⟨i, h⟩ s) 0 else refused s .badIndex

def commandFlush (i : Nat) (s : State) : Answer :=
  if h : i < 6 then taken (emptyEgress ⟨i, h⟩ s) (s.egressCount ⟨i, h⟩) else refused s .badIndex

/-! Requests of no other row: every READ, and the writes that have no row of their own (log entry 7) -/

/-- A READ that steps 1 to 4 of R160 pass. -/
def executeRead (r : Request) (s : State) : Answer :=
  match s.read r.object.toNat r.index.toNat r.field.toNat with
  | some v => taken s v
  | none => refused s .badIndex

/-- A WRITE to ROUTE, DOMAIN_SLOT, DOMAIN_ENTRY or ROOT_PARTITION that steps 1 to 4 of R160 pass. -/
def executeWrite (r : Request) (s : State) : Answer :=
  let i := r.index.toNat
  let f := r.field.toNat
  let v := r.value.toNat
  match r.object.toNat with
  | 0x04 => writeRoute (Fin.ofNat 4 i) f v s
  | 0x06 => writeDomainSlot (Fin.ofNat 16 i) v s
  | 0x07 => writeDomainEntry (Fin.ofNat 32 i) f v s
  | 0x0E => writeRoot (Fin.ofNat 4 i) f v s
  | _ => refused s .badField

def executeOther (r : Request) (s : State) : Answer :=
  match r.op with
  | .read => executeRead r s
  | .write => executeWrite r s
  | .pop | .cmd => refused s .badField

/-! The taking of a request (R159, R160) -/

/-- The response to a request (R12): VALUE zero unless the status is OK or CLAMPED. -/
def State.responseTo (s : State) (r : Request) (st : Status) (v : Nat) : Response where
  op := r.op
  src := s.ownAddr
  tag := r.tag
  object := r.object
  index := r.index
  field := r.field
  value := if st = .ok ∨ st = .clamped then BitVec.ofNat 32 v else 0#32
  status := BitVec.ofNat 8 st.code

/-- The response is placed, unless the request asks for none (R11, R160). -/
def respond (r : Request) (o : Answer) : State :=
  if r.noResponse then o.state else placeResponse (o.state.responseTo r o.status o.value) o.state

/-- Whether the agent may take request `r` now: it heads the queue, and 4 RP have passed since the last taking (R159). -/
def State.mayTake (s : State) (r : Request) : Bool :=
  s.locked && (s.ma.queue.head? == some r) &&
    match s.ma.lastTake with
    | some t => decide (t + 4 ≤ s.now)
    | none => true

/-- The queue and clock of the agent after it takes its head request (R159). -/
def takeHead (s : State) : State := s.setMa { s.ma with queue := s.ma.queue.drop 1, lastTake := some s.now }

/-- The outcome of a taken request: refused by steps 1 to 4 of R160, else by its own rule. -/
def judge (r : Request) (rule : State → Answer) (s : State) : Answer :=
  match s.refusal r with
  | some st => refused s st
  | none => rule s

/-- The agent takes request `r`, of row `row`, executes it and responds (R159, R160). A request that does not head the
queue, comes too early or is of another row is not taken: nothing happens (log entry 6). -/
def agentTakes (row : AgentRow) (r : Request) (rule : State → Answer) (s : State) : State :=
  if s.mayTake r && r.row == row then respond r (judge r rule (takeHead s)) else s

end Sys2Proof.Machine
end

