-- ==== Sys2Proof/Machine/Resets.lean ====
section
/-! DEFINITION. The resets: the hub reset (R169, R18, R62, R88, R107, R137, R158), power-on reset (R168) and the time with
PORST# low (R168). -/

namespace Sys2Proof.Machine

open Sys2Proof

/-- A port record after a hub reset (Table 2-1, R18): state and latencies kept, a window in progress restarted. -/
def Port.hubReset (p : Port) (now : Nat) : Port :=
  { p with
    attempts := 0
    badRun := 0
    counters := tab fun _ => 0
    trainRun := 0
    windowFrom := now }

/-- A D port's work after a hub reset (R18): a measuring sequence restarts from round 0, the refresh interval restarts. -/
def DLink.hubReset (l : DLink) (now : Nat) : DLink := { l with measure := Measure.fresh, refreshFrom := now }

/-- The link ports after a hub reset (R18). -/
def LinkPorts.hubReset (l : LinkPorts) (now : Nat) : LinkPorts :=
  { l with
    dports := tab fun n => (look l.dports n).hubReset now
    uport := l.uport.hubReset now
    dlinks := tab fun n => (look l.dlinks n).hubReset now }

/-- The hub reset (R169). The notes and reports that the present command has made and not placed go with it. -/
def hubReset (s : State) : State :=
  { s with
    lp := s.lp.hubReset s.now
    cf := Forwarder.reset s.cf.respQ
    pse := tab fun _ => Context.reset
    dg := DomainGen.reset
    tu := TriggerUnit.reset
    hu := HoldUnit.reset
    rc := tab fun _ => RootRec.reset
    ma := Agent.reset .hubReset
    own := { s.own with fresh := [], inbox := [] } }

/-- The agent takes a RESET_HUB: the response is placed first, then the reset is performed (R169). -/
def takeReset (r : Request) (s : State) : State :=
  if s.mayTake r && r.row == .resetHub then
    let o := judge r (fun t => taken t 0) (takeHead s)
    if o.status = .ok then hubReset (respond r o) else respond r o
  else s

/-- The release of PORST# with ROOTSEL sampled (R168, R163). The queue of waiting commands and the count of free choices
are the model's own and stay. -/
def powerOnReset (rootsel : Bool) (s : State) : State :=
  { State.powerOn (if rootsel then .root else .child) with
    pending := s.pending
    own := ⟨s.own.choices, [], []⟩ }

/-- PORST# goes low: no signal on any port, OUT0 to OUT15 LOW (R168). -/
def porstAsserted (s : State) : State :=
  let outs : Vector OutLine 16 := tab fun i => { s.out i with level := false, pin := false }
  { s with porst := true, dg := { s.dg with outs := outs } }

end Sys2Proof.Machine
end

