-- ==== Sys2Proof/Machine/TimeRows.lean ====
section
/-! DEFINITION. The rows that time brings: the RP itself, the timers' ends, the cell slots, executions, samplings and issues.
A row whose moment has not come changes nothing (log entry 6). Also what every row but the two of PORST# goes through. -/

namespace Sys2Proof.Machine

open Sys2Proof

/-- A row's effect: none while PORST# is held low (R168), else the row's act and what closes it. -/
def event (act : State → State) (s : State) : Host.Outcome State Fault Refusal :=
  .next (if s.porst then s else settle (act s))

/-- The RP ends at the output lines: every pin shows the level its line has (R99, R101; log entry 32). -/
def showLevels (s : State) : State :=
  let outs : Vector OutLine 16 := tab fun i => { s.out i with pin := (s.out i).level }
  s.setDg { s.dg with outs := outs }

/-- The levels of one RP are taken and the RP ends (R113, R126, R41, R99): the RP count goes on while the reference unit is
LOCKED; while it is SETTLING one period is counted by the settle timer, which stops at 8192 (log entry 2). -/
def takeLevels (trg : BitVec 8) (stl : BitVec 4) (s : State) : State :=
  let s := showLevels s
  match s.ref.state with
  | .unlocked => s
  | .settling => s.setRef { s.ref with timer := min 8192 (s.ref.timer + 1) }
  | .locked =>
    let tk : Vector Kept 8 := tab fun i => (look s.tu.kept i).take (trg.getLsbD i)
    let sk : Vector Kept 4 := tab fun i => (look s.hu.kept i).take (stl.getLsbD i)
    ((s.setTu { s.tu with kept := tk }).setHu { s.hu with kept := sk }).setNow (s.now + 1)

/-- The settle timer has reached 8192 (R39). -/
def endSettling (s : State) : State :=
  if s.ref.state = .settling ∧ 8192 ≤ s.ref.timer then
    followConditions (raise .refLocked (s.setRef { s.ref with state := .locked }))
  else s

/-- The attempt window of a port has ended without alignment (R21, R22). -/
def endWindow (x : PortId) (s : State) : State :=
  if s.locked ∧ (s.port x).state = .training ∧ (s.port x).windowFrom + 4096 ≤ s.now then failAttempt x s else s

/-- Whether the round of D port `n` has waited 1024 RP for its answer (R28). -/
def State.roundOver (s : State) (n : Dn) : Bool :=
  match (s.dlink n).measure.sentAt with
  | some t => decide (t + 1024 ≤ s.now)
  | none => false

/-- A measuring round has no answer in time (R28). -/
def endRound (n : Dn) (s : State) : State :=
  if s.locked ∧ (s.port (.d n)).state = .measuring ∧ s.roundOver n then failAttempt (.d n) s else s

/-- The ENUM refresh interval of a D port in UP has passed (R32). -/
def refreshEnum (n : Dn) (s : State) : State :=
  if s.locked ∧ s.isUp (.d n) ∧ (s.dlink n).refreshFrom + 4096 ≤ s.now then
    placeEnum n (s.setDLink n { s.dlink n with refreshFrom := s.now })
  else s

/-- A loss of lock with the source signal present (R39, R40). -/
def loseLock (s : State) : State := if s.locked then lostReference s else s

/-- SETTLE_TIMER_EXPIRY (R39). -/
def execSettleTimerExpiry (s : State) : Host.Outcome State Fault Refusal := event endSettling s

/-- TRAINING_WINDOW_EXPIRY (R21). -/
def execTrainingWindowExpiry (x : PortId) (s : State) : Host.Outcome State Fault Refusal := event (endWindow x) s

/-- ROUND_TIMEOUT (R28). -/
def execRoundTimeout (n : Dn) (s : State) : Host.Outcome State Fault Refusal := event (endRound n) s

/-- ENUM_REFRESH_EXPIRY (R32). -/
def execEnumRefreshExpiry (n : Dn) (s : State) : Host.Outcome State Fault Refusal := event (refreshEnum n) s

/-- D_PORT_CELL_SLOT (R52). -/
def execDPortCellSlot (n : Dn) (s : State) : Host.Outcome State Fault Refusal := event (slotD n) s

/-- U_PORT_CELL_SLOT (R58). -/
def execUPortCellSlot (s : State) : Host.Outcome State Fault Refusal := event slotU s

/-- STEP_EXECUTION (R76). -/
def execStepExecution (p : Part) (s : State) : Host.Outcome State Fault Refusal := event (executeHead p) s

/-- FROZEN_STALL_SAMPLING (R127). -/
def execFrozenStallSampling (p : Part) (s : State) : Host.Outcome State Fault Refusal := event (sampleFrozen p) s

/-- STEP_ISSUE (R140). -/
def execStepIssue (p : Part) (s : State) : Host.Outcome State Fault Refusal := event (pace p) s

/-- ROOT_FROZEN (R147). -/
def execRootFrozen (p : Part) (s : State) : Host.Outcome State Fault Refusal := event (rootFreeze p) s

/-- LEVEL_TAKEN_EACH_RP (R113). -/
def execLevelTakenEachRp (trg : BitVec 8) (stl : BitVec 4) (s : State) : Host.Outcome State Fault Refusal :=
  event (takeLevels trg stl) s

/-! Signals and resets from the pins -/

/-- POWER_ON_RESET (R168). -/
def execPowerOnReset (rootsel : Bool) (s : State) : Host.Outcome State Fault Refusal := .next (powerOnReset rootsel s)

/-- PORST_ASSERTED (R168). -/
def execPorstAsserted (s : State) : Host.Outcome State Fault Refusal := .next (porstAsserted s)

/-- SIGNAL_PRESENT (R24). -/
def execSignalPresent (src : SignalSource) (s : State) : Host.Outcome State Fault Refusal := event (signalPresent src) s

/-- SIGNAL_LOST (R24). -/
def execSignalLost (src : SignalSource) (s : State) : Host.Outcome State Fault Refusal := event (signalLost src) s

/-- LOSS_OF_LOCK (R40). -/
def execLossOfLock (s : State) : Host.Outcome State Fault Refusal := event loseLock s

end Sys2Proof.Machine
end

