-- ==== Sys2Proof/Machine/AgentRows.lean ====
section
/-! DEFINITION. The rows at which the agent takes a request of that row from the head of its queue (R159, R160). -/

namespace Sys2Proof.Machine

open Sys2Proof

/-- CMD_START (R151). -/
def execCmdStart (r : Request) (s : State) : Host.Outcome State Fault Refusal :=
  event (agentTakes .start r (rootCommand (Fin.ofNat 4 r.index.toNat) (rootStart (Fin.ofNat 4 r.index.toNat)))) s

/-- CMD_PAUSE (R152). -/
def execCmdPause (r : Request) (s : State) : Host.Outcome State Fault Refusal :=
  event (agentTakes .pause r (rootCommand (Fin.ofNat 4 r.index.toNat) (rootPause (Fin.ofNat 4 r.index.toNat)))) s

/-- CMD_CONTINUE (R153). -/
def execCmdContinue (r : Request) (s : State) : Host.Outcome State Fault Refusal :=
  event (agentTakes .continue r (rootCommand (Fin.ofNat 4 r.index.toNat) (rootContinue (Fin.ofNat 4 r.index.toNat)))) s

/-- CMD_ABORT (R154). -/
def execCmdAbort (r : Request) (s : State) : Host.Outcome State Fault Refusal :=
  event (agentTakes .abort r (rootCommand (Fin.ofNat 4 r.index.toNat) (rootAbort (Fin.ofNat 4 r.index.toNat)))) s

/-- CMD_SWAP (R155). -/
def execCmdSwap (r : Request) (s : State) : Host.Outcome State Fault Refusal :=
  event (agentTakes .swap r (rootCommand (Fin.ofNat 4 r.index.toNat) (rootSwap (Fin.ofNat 4 r.index.toNat)))) s

/-- CMD_RESET_HUB (R169). -/
def execCmdResetHub (r : Request) (s : State) : Host.Outcome State Fault Refusal := event (takeReset r) s

/-- CMD_RETRAIN (R27). -/
def execCmdRetrain (r : Request) (s : State) : Host.Outcome State Fault Refusal :=
  event (agentTakes .retrain r (commandRetrain r.index.toNat)) s

/-- CMD_FLUSH (R53). -/
def execCmdFlush (r : Request) (s : State) : Host.Outcome State Fault Refusal :=
  event (agentTakes .flush r (commandFlush r.index.toNat)) s

/-- CAPTURE_POP (R122). -/
def execCapturePop (r : Request) (s : State) : Host.Outcome State Fault Refusal :=
  event (agentTakes .capturePop r popCapture) s

/-- TRIGGER_WRITE (R112). -/
def execTriggerWrite (r : Request) (s : State) : Host.Outcome State Fault Refusal :=
  event (agentTakes .triggerWrite r (writeTrigger (Fin.ofNat 8 r.index.toNat) r.field.toNat r.value.toNat)) s

/-- STALL_WRITE (R125). -/
def execStallWrite (r : Request) (s : State) : Host.Outcome State Fault Refusal :=
  event (agentTakes .stallWrite r (writeStall (Fin.ofNat 4 r.index.toNat) r.field.toNat r.value.toNat)) s

/-- OUTPUT_WRITE (R104). -/
def execOutputWrite (r : Request) (s : State) : Host.Outcome State Fault Refusal :=
  event (agentTakes .outputWrite r (writeOutput (Fin.ofNat 16 r.index.toNat) r.field.toNat r.value.toNat)) s

/-- HUB_WRITE (R164). -/
def execHubWrite (r : Request) (s : State) : Host.Outcome State Fault Refusal :=
  event (agentTakes .hubWrite r (writeHub r.field.toNat r.value.toNat)) s

/-- COUNTER_WRITE (R167). -/
def execCounterWrite (r : Request) (s : State) : Host.Outcome State Fault Refusal :=
  event (agentTakes .counterWrite r (writeCounter r.index.toNat)) s

/-- EVENTS_WRITE (R165). -/
def execEventsWrite (r : Request) (s : State) : Host.Outcome State Fault Refusal :=
  event (agentTakes .eventsWrite r (writeEvents r.field.toNat r.value.toNat)) s

/-- MANAGEMENT_WRITE (R161): every request that no other row names, a READ among them (log entry 7). -/
def execManagementWrite (r : Request) (s : State) : Host.Outcome State Fault Refusal :=
  event (agentTakes .managementWrite r (executeOther r)) s

end Sys2Proof.Machine
end

