-- ==== Sys2Proof/Machine/CellRows.lean ====
section
/-! DEFINITION. The rows of received cells (R3 to R7): what each cell does where Table 1-3 delivers it. -/

namespace Sys2Proof.Machine

open Sys2Proof

/-- What a cell that only a D port delivers does, by the link it came on. -/
def onLink (x : PortId) (act : Dn → State → State) (s : State) : State :=
  match x with
  | .d n => act n s
  | .u => s

/-- IDLE (R21): it only counts as a good cell where a port is aligned. -/
def execIdle (x : PortId) (s : State) : Host.Outcome State Fault Refusal := event (receive x .idle fun t => t) s

/-- BAD_CELL (R3). Bytes that pass CHECK are no bad cell. -/
def execBadCell (x : PortId) (bytes : List Byte) (s : State) : Host.Outcome State Fault Refusal :=
  event (fun t => if checkPasses bytes then t else receiveBad x t) s

/-- UNKNOWN_KIND (R5). A defined kind is no unknown one. -/
def execUnknownKind (x : PortId) (kind : Byte) (s : State) : Host.Outcome State Fault Refusal :=
  event (fun t => if (Kind.ofCode kind).isSome then t else receiveUnknown x t) s

/-- ECHO (R29). -/
def execEcho (x : PortId) (round : Fin 8) (s : State) : Host.Outcome State Fault Refusal :=
  event (receive x .echo (takeEcho round)) s

/-- ECHO_BACK (R28). -/
def execEchoBack (x : PortId) (round : Fin 8) (s : State) : Host.Outcome State Fault Refusal :=
  event (receive x .echoBack (onLink x fun n => takeEchoBack n round)) s

/-- ENUM (R33, R34). -/
def execEnum (x : PortId) (addr : Addr) (depth lat : Nat) (s : State) : Host.Outcome State Fault Refusal :=
  event (receive x .enum (takeEnum addr depth lat)) s

/-- STEP (R45, R66). -/
def execStep (x : PortId) (p : Part) (n age : Nat) (s : State) : Host.Outcome State Fault Refusal :=
  event (receive x .step (deliverStep p n age)) s

/-- START (R45, R65). -/
def execStart (x : PortId) (p : Part) (e : Nat) (s : State) : Host.Outcome State Fault Refusal :=
  event (receive x .start (deliverRun p (.start e))) s

/-- FREEZE (R45, R68). -/
def execFreeze (x : PortId) (p : Part) (f : Nat) (causes : Causes) (leadShort : Bool) (s : State) :
    Host.Outcome State Fault Refusal :=
  event (receive x .freeze (deliverRun p (.freeze f causes leadShort))) s

/-- RESUME (R45, R69). -/
def execResume (x : PortId) (p : Part) (r : Nat) (s : State) : Host.Outcome State Fault Refusal :=
  event (receive x .resume (deliverRun p (.resume r))) s

/-- ABORT (R45, R70). -/
def execAbort (x : PortId) (p : Part) (s : State) : Host.Outcome State Fault Refusal :=
  event (receive x .abort (deliverRun p .abort)) s

/-- SWAP (R45, R105). -/
def execSwap (x : PortId) (p : Part) (w : Nat) (s : State) : Host.Outcome State Fault Refusal :=
  event (receive x .swap (deliverRun p (.swap w))) s

/-- MREQ (R48). -/
def execMreq (x : PortId) (r : Request) (s : State) : Host.Outcome State Fault Refusal :=
  event (receive x .mreq (routeRequest r)) s

/-- HOLD (R49, R130). -/
def execHold (x : PortId) (p : Part) (stamp : Option Nat) (s : State) : Host.Outcome State Fault Refusal :=
  event (receive x .hold (onLink x fun n => acceptSummary p n (takeHold p n stamp))) s

/-- HALTREQ (R49, R120). -/
def execHaltreq (x : PortId) (p : Part) (cls : Fin 4) (h : HaltReq) (s : State) : Host.Outcome State Fault Refusal :=
  event (receive x .haltreq (onLink x fun n => acceptSummary p n (offerHalt p cls h))) s

/-- FAULT (R49, R60). -/
def execFault (x : PortId) (p : Part) (r : FaultReport) (s : State) : Host.Outcome State Fault Refusal :=
  event (receive x .fault (onLink x fun n => acceptSummary p n (takeFault p r))) s

/-- PACE (R49, R83). -/
def execPace (x : PortId) (p : Part) (slow : Bool) (s : State) : Host.Outcome State Fault Refusal :=
  event (receive x .pace (onLink x fun n => acceptSummary p n (takePace p n slow))) s

/-- NOTE (R50). -/
def execNote (x : PortId) (n : Note) (s : State) : Host.Outcome State Fault Refusal :=
  event (receive x .note (placeNote n)) s

/-- MRSP (R50). -/
def execMrsp (x : PortId) (r : Response) (s : State) : Host.Outcome State Fault Refusal :=
  event (receive x .mrsp (placeResponse r)) s

end Sys2Proof.Machine
end

