-- ==== Sys2Proof/Machine/Dispatch.lean ====
section
/-! DEFINITION. The effect of a command on everything but the queue: one arm per row of spec/opcode_table.json. -/

namespace Sys2Proof.Machine

open Sys2Proof

def exec (i : Instr) (s : State) : Host.Outcome State Fault Refusal :=
  match i with
  | .powerOnReset rootsel => Sys2Proof.Machine.execPowerOnReset rootsel s
  | .signalPresent src => Sys2Proof.Machine.execSignalPresent src s
  | .signalLost src => Sys2Proof.Machine.execSignalLost src s
  | .lossOfLock => Sys2Proof.Machine.execLossOfLock s
  | .settleTimerExpiry => Sys2Proof.Machine.execSettleTimerExpiry s
  | .trainingWindowExpiry x => Sys2Proof.Machine.execTrainingWindowExpiry x s
  | .roundTimeout n => Sys2Proof.Machine.execRoundTimeout n s
  | .enumRefreshExpiry n => Sys2Proof.Machine.execEnumRefreshExpiry n s
  | .idle x => Sys2Proof.Machine.execIdle x s
  | .badCell x bytes => Sys2Proof.Machine.execBadCell x bytes s
  | .unknownKind x kind => Sys2Proof.Machine.execUnknownKind x kind s
  | .echo x round => Sys2Proof.Machine.execEcho x round s
  | .echoBack x round => Sys2Proof.Machine.execEchoBack x round s
  | .enum x addr depth lat => Sys2Proof.Machine.execEnum x addr depth lat s
  | .dPortCellSlot n => Sys2Proof.Machine.execDPortCellSlot n s
  | .uPortCellSlot => Sys2Proof.Machine.execUPortCellSlot s
  | .step x p n age => Sys2Proof.Machine.execStep x p n age s
  | .start x p e => Sys2Proof.Machine.execStart x p e s
  | .freeze x p f causes leadShort => Sys2Proof.Machine.execFreeze x p f causes leadShort s
  | .resume x p r => Sys2Proof.Machine.execResume x p r s
  | .abort x p => Sys2Proof.Machine.execAbort x p s
  | .swap x p w => Sys2Proof.Machine.execSwap x p w s
  | .mreq x r => Sys2Proof.Machine.execMreq x r s
  | .hold x p stamp => Sys2Proof.Machine.execHold x p stamp s
  | .haltreq x p cls h => Sys2Proof.Machine.execHaltreq x p cls h s
  | .fault x p r => Sys2Proof.Machine.execFault x p r s
  | .pace x p slow => Sys2Proof.Machine.execPace x p slow s
  | .note x n => Sys2Proof.Machine.execNote x n s
  | .mrsp x r => Sys2Proof.Machine.execMrsp x r s
  | .stepExecution p => Sys2Proof.Machine.execStepExecution p s
  | .frozenStallSampling p => Sys2Proof.Machine.execFrozenStallSampling p s
  | .stepIssue p => Sys2Proof.Machine.execStepIssue p s
  | .rootFrozen p => Sys2Proof.Machine.execRootFrozen p s
  | .cmdStart r => Sys2Proof.Machine.execCmdStart r s
  | .cmdPause r => Sys2Proof.Machine.execCmdPause r s
  | .cmdContinue r => Sys2Proof.Machine.execCmdContinue r s
  | .cmdAbort r => Sys2Proof.Machine.execCmdAbort r s
  | .cmdSwap r => Sys2Proof.Machine.execCmdSwap r s
  | .cmdResetHub r => Sys2Proof.Machine.execCmdResetHub r s
  | .cmdRetrain r => Sys2Proof.Machine.execCmdRetrain r s
  | .cmdFlush r => Sys2Proof.Machine.execCmdFlush r s
  | .capturePop r => Sys2Proof.Machine.execCapturePop r s
  | .triggerWrite r => Sys2Proof.Machine.execTriggerWrite r s
  | .stallWrite r => Sys2Proof.Machine.execStallWrite r s
  | .outputWrite r => Sys2Proof.Machine.execOutputWrite r s
  | .hubWrite r => Sys2Proof.Machine.execHubWrite r s
  | .counterWrite r => Sys2Proof.Machine.execCounterWrite r s
  | .eventsWrite r => Sys2Proof.Machine.execEventsWrite r s
  | .managementWrite r => Sys2Proof.Machine.execManagementWrite r s
  | .levelTakenEachRp trg stl => Sys2Proof.Machine.execLevelTakenEachRp trg stl s
  | .porstAsserted => Sys2Proof.Machine.execPorstAsserted s

end Sys2Proof.Machine
end

