-- ==== Sys2Proof/Safety.lean ====
section
/-! DEFINITION. The terms in which claims about the hub are made: what records and nothing else (the log), what a received
cell does to its port before it is looked at, and the invariants of the machine, each a decidable predicate on State. -/

namespace Sys2Proof

/-- Whether a note is an EVENT note. -/
def Note.isEvent : Note → Bool
  | .event _ _ => true
  | .trigger .. | .state .. | .other _ => false

/-- A cell whose fields fit the bytes chapter 1 gives them (Tables 1-5 and 1-9). -/
abbrev Cell.Fits : Cell → Prop
  | .step _ n age => StepField n ∧ age ≤ 4095
  | .note n => n.WellFormed
  | _ => True

/-- Whether chapter 1 sets out the bytes of a cell's kind. -/
def Cell.isLaid : Cell → Bool
  | .idle | .step .. | .run _ .abort | .mreq _ | .note _ | .mrsp _ => true
  | _ => false

/-- The port and the kind of a row that is the arrival of a good cell of a defined kind (R5). -/
def Instr.goodCell : Instr → Option (PortId × Kind)
  | .idle x => some (x, .idle)
  | .echo x _ => some (x, .echo)
  | .echoBack x _ => some (x, .echoBack)
  | .enum x _ _ _ => some (x, .enum)
  | .step x _ _ _ => some (x, .step)
  | .start x _ _ => some (x, .start)
  | .freeze x _ _ _ _ => some (x, .freeze)
  | .resume x _ _ => some (x, .resume)
  | .abort x _ => some (x, .abort)
  | .swap x _ _ => some (x, .swap)
  | .mreq x _ => some (x, .mreq)
  | .hold x _ _ => some (x, .hold)
  | .haltreq x _ _ _ => some (x, .haltreq)
  | .fault x _ _ => some (x, .fault)
  | .pace x _ _ => some (x, .pace)
  | .note x _ => some (x, .note)
  | .mrsp x _ => some (x, .mrsp)
  | .powerOnReset _ | .signalPresent _ | .signalLost _ | .lossOfLock | .settleTimerExpiry | .trainingWindowExpiry _
  | .roundTimeout _ | .enumRefreshExpiry _ | .badCell _ _ | .unknownKind _ _ | .dPortCellSlot _ | .uPortCellSlot
  | .stepExecution _ | .frozenStallSampling _ | .stepIssue _ | .rootFrozen _ | .cmdStart _ | .cmdPause _ | .cmdContinue _
  | .cmdAbort _ | .cmdSwap _ | .cmdResetHub _ | .cmdRetrain _ | .cmdFlush _ | .capturePop _ | .triggerWrite _
  | .stallWrite _ | .outputWrite _ | .hubWrite _ | .counterWrite _ | .eventsWrite _ | .managementWrite _
  | .levelTakenEachRp _ _ | .porstAsserted => none

/-- The port of a row that is the arrival of a cell of any kind: bad, of an undefined kind, or good (R3, R5). -/
def Instr.arrival : Instr → Option PortId
  | .badCell x bytes => if checkPasses bytes then none else some x
  | .unknownKind x kind => if (Kind.ofCode kind).isSome then none else some x
  | c => c.goodCell.map Prod.fst

/-- The partition of a cell of a run at a child's U port (R45). -/
def Instr.runCell : Instr → Option Part
  | .step .u p _ _ | .start .u p _ | .freeze .u p _ _ _ | .resume .u p _ | .abort .u p | .swap .u p _ => some p
  | _ => none

/-- Whether a cell begins or ends a run (R65, R70). -/
def Instr.begins : Instr → Bool
  | .start .. | .abort .. => true
  | _ => false

/-- The link and the partition of an upward summary cell at a D port (R49). -/
def Instr.reports : Instr → Option (Dn × Part)
  | .hold (.d n) p _ | .haltreq (.d n) p _ _ | .fault (.d n) p _ | .pace (.d n) p _ => some (n, p)
  | _ => none

/-- Whether a row is the end of an RP (R113; log entry 2). -/
def Instr.endsRp : Instr → Bool
  | .levelTakenEachRp .. => true
  | _ => false

/-- The request of a row at which the agent takes one, with the row's name. -/
def Instr.agentRow : Instr → Option (AgentRow × Request)
  | .cmdStart r => some (.start, r)
  | .cmdPause r => some (.pause, r)
  | .cmdContinue r => some (.continue, r)
  | .cmdAbort r => some (.abort, r)
  | .cmdSwap r => some (.swap, r)
  | .cmdResetHub r => some (.resetHub, r)
  | .cmdRetrain r => some (.retrain, r)
  | .cmdFlush r => some (.flush, r)
  | .capturePop r => some (.capturePop, r)
  | .triggerWrite r => some (.triggerWrite, r)
  | .stallWrite r => some (.stallWrite, r)
  | .outputWrite r => some (.outputWrite, r)
  | .hubWrite r => some (.hubWrite, r)
  | .counterWrite r => some (.counterWrite, r)
  | .eventsWrite r => some (.eventsWrite, r)
  | .managementWrite r => some (.managementWrite, r)
  | .powerOnReset _ | .signalPresent _ | .signalLost _ | .lossOfLock | .settleTimerExpiry | .trainingWindowExpiry _
  | .roundTimeout _ | .enumRefreshExpiry _ | .idle _ | .badCell _ _ | .unknownKind _ _ | .echo _ _ | .echoBack _ _
  | .enum _ _ _ _ | .dPortCellSlot _ | .uPortCellSlot | .step _ _ _ _ | .start _ _ _ | .freeze _ _ _ _ _
  | .resume _ _ _ | .abort _ _ | .swap _ _ _ | .mreq _ _ | .hold _ _ _ | .haltreq _ _ _ _ | .fault _ _ _ | .pace _ _ _
  | .note _ _ | .mrsp _ _ | .stepExecution _ | .frozenStallSampling _ | .stepIssue _ | .rootFrozen _
  | .levelTakenEachRp _ _ | .porstAsserted => none

end Sys2Proof

namespace Sys2Proof.Machine

open Sys2Proof

/-! The log -/

/-- The seven ports of a hub. -/
def allPorts : List PortId := [.d 0, .d 1, .d 2, .d 3, .d 4, .d 5, .u]

/-- Whether the latch of an event is set (R165). -/
def State.latched (s : State) (e : Event) : Bool := s.ma.latches.getLsbD e.code

/-- Counter `k` of a port (R167). -/
def State.counter (s : State) (x : PortId) (k : Fin 8) : Nat := look (s.port x).counters k

/-- Hub counter 56 + `k` (R167). -/
def State.hubCounter (s : State) (k : Fin 3) : Nat := look s.ma.counters k

/-- A port without its counters. -/
def Port.sansLog (p : Port) : Port := { p with counters := tab fun _ => 0 }

/-- The state without what only records: counters, event latches, note queue, and the model's own bookkeeping. -/
def State.sansLog (s : State) : State :=
  { s with
    lp := { s.lp with dports := tab fun n => (look s.lp.dports n).sansLog, uport := s.lp.uport.sansLog }
    cf := { s.cf with noteQ := [] }
    ma := { s.ma with latches := 0#16, counters := tab fun _ => 0 }
    own := ⟨0, [], []⟩ }

/-- What a command that raises the events `es` and increments the port counters `cs` and the hub counters `hs` does to
latches and counters: the latches of `es` are set, no latch is cleared, no other latch is set but those that dropped notes
and full counters bring (R59, R42), and no other counter changes but NOTE_DROP. -/
abbrev Logged (es : List Event) (cs : List (PortId × Fin 8)) (hs : List (Fin 3)) (s t : State) : Prop :=
  (∀ e ∈ es, t.latched e = true) ∧
  (∀ e ∈ Event.all, s.latched e = true → t.latched e = true) ∧
  (∀ e ∈ Event.all, e ∉ es → e ≠ .counterSaturated → e ≠ .noteDrop → t.latched e = s.latched e) ∧
  (∀ x ∈ allPorts, ∀ k : Fin 8, (x, k) ≠ (.u, kNoteDrop) →
    t.counter x k = if (x, k) ∈ cs then satSucc (s.counter x k) else s.counter x k) ∧
  (∀ k : Fin 3, t.hubCounter k = if k ∈ hs then satSucc (s.hubCounter k) else s.hubCounter k)

/-- The note queue has at most gained EVENT notes of this hub's own at its tail (R166), and none where no event is
enabled. -/
abbrev OnlyEventNotes (s t : State) : Prop :=
  s.cf.noteQ <+: t.cf.noteQ ∧ (∀ n ∈ t.cf.noteQ.drop s.cf.noteQ.length, n.isEvent = true) ∧
    (s.ma.enables = 0#16 → t.cf.noteQ = s.cf.noteQ)

/-- `t` is `s` but for what a command records when it raises `es` and increments `cs` and `hs`, EVENT notes included. -/
abbrev SameButLog (es : List Event) (cs : List (PortId × Fin 8)) (hs : List (Fin 3)) (s t : State) : Prop :=
  t.sansLog = s.sansLog ∧ Logged es cs hs s t ∧ OnlyEventNotes s t

/-- What a command has recorded by its end: an event whose latch it set with the enable set has its EVENT note at the tail of
the note queue, where the queue takes notes and is not full (R166, R59, R38); a counter that it brought to 65535 has raised
COUNTER_SATURATED (R42, R61, R167, R80). -/
abbrev Recorded (s t : State) : Prop :=
  (∀ e ∈ Event.all, s.latched e = false → t.latched e = true → t.ma.enables.getLsbD e.code = true →
    t.upstreamOpen = true → t.cf.noteQ.length < 16 →
    .event t.ownAddr e ∈ t.cf.noteQ.drop s.cf.noteQ.length) ∧
  (∀ x ∈ allPorts, ∀ k : Fin 8, s.counter x k < counterMax → t.counter x k = counterMax →
    t.latched .counterSaturated = true) ∧
  (∀ k : Fin 3, s.hubCounter k < counterMax → t.hubCounter k = counterMax → t.latched .counterSaturated = true) ∧
  ∀ p : Fin 4, (s.ctx p).second < counterMax → (t.ctx p).second = counterMax → t.latched .counterSaturated = true

/-! Between commands -/

/-- Nothing that a command made is left unplaced. -/
abbrev State.Settled (s : State) : Prop := s.own.fresh = [] ∧ s.own.inbox = []

/-- A hub that takes events: PORST# is high (R168), and nothing is left unplaced. -/
abbrev State.Ready (s : State) : Prop := s.porst = false ∧ s.Settled

/-! Arrivals -/

/-- A good cell has arrived at port `x` in an aligned state and nothing else has happened: its arrival time on U is kept
(R4, R29) and the bad-cell run is 0 (R23). -/
def State.heard (s : State) (x : PortId) : State := clearBadRun x (noteArrival x s)

/-- Whether a port is in an aligned state (R3). -/
def State.aligned (s : State) (x : PortId) : Bool :=
  match (s.port x).state with
  | .measuring | .waitEnum | .up => true
  | .down | .training | .failed => false

/-! Partition cells -/

/-- The routed links of `p` that are not UP, on which a copy is a dead route (R45). -/
def State.deadLinks (s : State) (p : Part) : List Dn := allLinks.filter fun n => s.inMask p n && !s.isUp (.d n)

/-- The routed links of `p` that are UP and whose egress queues `full` finds full (R51). -/
def State.fullLinks (s : State) (p : Part) (full : Egress → Bool) : List Dn :=
  allLinks.filter fun n => s.inMask p n && s.isUp (.d n) && full (s.egress n)

/-- The counters that a partition cell's copies increment (R45, R51). -/
def State.copyLosses (s : State) (p : Part) (full : Egress → Bool) : List (PortId × Fin 8) :=
  (s.deadLinks p).map (fun n => (PortId.d n, kDeadRoute)) ++ (s.fullLinks p full).map fun n => (PortId.d n, kCellDrop)

/-- The events that a partition cell's copies raise (R51). -/
def State.copyEvents (s : State) (p : Part) (full : Egress → Bool) : List Event :=
  if s.fullLinks p full = [] then [] else [.cellLoss]

/-- PACE_SLOW, where some pace state goes from OK to SLOW between two states (R84). -/
def paceEvents (s t : State) : List Event :=
  if allParts.any fun p => !(s.ctx p).pace && (t.ctx p).pace then [.paceSlow] else []

/-- Whether an urgent queue is full (Table 3-3). -/
def Egress.urgentFull (g : Egress) : Bool := decide (8 ≤ g.urgent.length)

/-- Whether a step queue is full (Table 3-3). -/
def Egress.stepsFull (g : Egress) : Bool := decide (16 ≤ g.steps.length)

/-- A link's queues after a STEP copy joins (R51, R54). -/
def Egress.withStep (g : Egress) (c : StepCopy) : Egress :=
  { g with steps := g.steps ++ [c], backedUp := decide (12 ≤ g.steps.length + 1) || g.backedUp }

/-- The steps of a link's queue that a run-control cell of `p` leaves in it (R47). -/
def Egress.keptSteps (g : Egress) (p : Part) (r : Run) : List StepCopy :=
  match r with
  | .start _ | .abort => g.steps.filter fun c => c.part != p
  | .freeze .. | .resume _ | .swap _ => g.steps

/-- A link's queues after a run-control cell of `p` joins (R47, R51, R54). -/
def Egress.withRun (g : Egress) (p : Part) (r : Run) : Egress :=
  { g with
    urgent := g.urgent ++ [⟨p, r⟩]
    steps := g.keptSteps p r
    backedUp :=
      g.backedUp && (decide ((g.keptSteps p r).length = g.steps.length) || decide (4 < (g.keptSteps p r).length)) }

/-- The PACE slot of `p` once its sources give the pace state `v` (R84). -/
def State.paceSlotAfter (s : State) (p : Part) (v : Bool) : Option Bool :=
  if v = (s.ctx p).pace ∨ (s.ctx p).state = .idle then (s.slots p).pace else some v

/-- Of partition `p` nothing moves at a child but the pace state that its sources give, with its PACE slot (R84). -/
abbrev OnlyPaceMoves (p : Part) (s t : State) : Prop :=
  t.ctx p = { s.ctx p with pace := t.paceOf p } ∧
  t.slots p = { s.slots p with pace := s.paceSlotAfter p (t.paceOf p) }

/-- The forwarder's stores that partition cells leave alone. -/
abbrev SameStores (s t : State) : Prop :=
  t.cf.routes = s.cf.routes ∧ t.cf.lastServed = s.cf.lastServed ∧ t.cf.respQ = s.cf.respQ

/-- Whether the queue of the cell's class is full on a link (R45, R51). -/
def findsFull (c : Instr) (g : Egress) : Bool :=
  match c with
  | .step .. => g.stepsFull
  | _ => g.urgentFull

/-- A link's queues after they are given the copy of a partition cell of `p` (R45, R47, R51, R54). -/
def Egress.given (g : Egress) (c : Instr) (p : Part) (now : Nat) : Egress :=
  match c with
  | .step _ _ n age => g.withStep ⟨p, n, age, now⟩
  | .start _ _ e => g.withRun p (.start e)
  | .freeze _ _ f causes short => g.withRun p (.freeze f causes short)
  | .resume _ _ r => g.withRun p (.resume r)
  | .abort .. => g.withRun p .abort
  | .swap _ _ w => g.withRun p (.swap w)
  | _ => g

/-- A link's queues after a partition cell of `p` is placed on them: unchanged where its queue is full (R51). -/
def Egress.offered (g : Egress) (c : Instr) (p : Part) (now : Nat) : Egress := if findsFull c g then g else g.given c p now

/-- The queues of link `n` after partition cells of `p` have been copied to the routed links one after another (R45). -/
def State.copiedAll (s : State) (cs : List Instr) (p : Part) (n : Dn) : Egress :=
  if s.inMask p n && s.isUp (.d n) then cs.foldl (fun g c => g.offered c p s.now) (s.egress n) else s.egress n

/-- The queues of link `n` after one partition cell of `p` has been copied to the routed links (R45). -/
def State.copied (s : State) (c : Instr) (p : Part) (n : Dn) : Egress := s.copiedAll [c] p n

/-- The context stopped at freeze point `f`, or kept at a lower one it holds (R68). -/
def Context.stoppedAt (c : Context) (f : Nat) (causes : Causes) (now : Nat) : Context :=
  let g := min f (c.freeze.getD f)
  let done := (c.last.map fun l => l + 1).getD c.epoch == g
  { c with
    freeze := some g
    causes := causes
    state := if done then .frozen else .freezing
    frozenMark := if done = true ∧ c.state ≠ .frozen then now else c.frozenMark }

/-- The context whose freeze point a RESUME has cleared (R69). -/
def Context.goesOn (c : Context) : Context :=
  { c with freeze := none, causes := Causes.none, state := if c.last = none then .armed else .running }

/-- What forwarding a partition cell of `p` leaves at a child: its copies, and in every other partition the pace state. -/
abbrev Forwarded (c : Instr) (p : Part) (s t : State) : Prop :=
  (∀ n : Fin 6, t.egress n = s.copied c p n) ∧ ∀ q : Fin 4, q ≠ p → OnlyPaceMoves q s t

/-- The log of a partition cell of `p` that raises `es` and counts `hs` beside what its copies bring (R45, R51). -/
abbrev CellLogged (c : Instr) (p : Part) (es : List Event) (hs : List (Fin 3)) (s t : State) : Prop :=
  Logged (es ++ s.copyEvents p (findsFull c)) (s.copyLosses p (findsFull c)) hs s t ∧ OnlyEventNotes s t

/-- PACE_SLOW where it is latched: the statement leaves its raising open. -/
def State.paceOpen (t : State) : List Event := if t.latched .paceSlow then [.paceSlow] else []

/-- The fault that a cell of `p` brings to a context in a run, none where the context takes it (R66, R67, R68, R69). -/
def State.faultOf (s : State) (p : Part) (c : Instr) : Option FaultCause :=
  let x := s.ctx p
  match c with
  | .step _ _ n _ =>
    if x.state = .frozen then some .protocol
    else if n ≠ x.expected then some .stepGap
    else if freezeMax ≤ n ∨ ∃ f ∈ x.freeze, f ≤ n then some .protocol
    else if (s.route p).isLocal = true ∧ 128 ≤ x.queue.length then some .overrun
    else none
  | .freeze _ _ f _ _ => if f < x.expected then some .protocol else none
  | .resume _ _ r =>
    if (x.state = .freezing ∨ x.state = .frozen) ∧ x.freeze = some r then none else some .protocol
  | _ => none

/-- All but the contexts, the forwarder and the log is the same. -/
abbrev SameOutsideRun (s t : State) : Prop :=
  (t.sansLog.setPse s.pse).setCf s.cf = s.sansLog.setCf s.cf ∧ SameStores s t

/-- All but the contexts, the forwarder, the board units and the log is the same. -/
abbrev SameOutsideBoard (s t : State) : Prop :=
  ((((t.sansLog.setPse s.pse).setCf s.cf).setDg s.dg).setTu s.tu).setHu s.hu = s.sansLog.setCf s.cf ∧ SameStores s t

/-- A child whose U port is UP and that takes events. -/
abbrev State.InService (s : State) : Prop := s.Ready ∧ s.isRoot = false ∧ (s.port .u).state = .up

/-- The announced stamp after the hold set has changed to one of hold stamp `m`, `a` having been announced (R131, R132). -/
def announcedAfter (a m : Option Nat) : Option Nat :=
  match m, a with
  | none, _ => none
  | some m, none => some m
  | some m, some a => some (min m a)

/-- The HOLD slot after the same change (R131, R132). -/
def Slots.holdAfter (g : Slots) (a m : Option Nat) : Option HoldMsg :=
  match m, a with
  | none, none => g.hold
  | none, some _ => if g.reported then some .off else if g.hold = some .off then some .off else none
  | some m, none => some (.on m)
  | some m, some a => if m < a then some (.on m) else g.hold

/-- The HOLD summary of `p` has followed the change of its hold set (R131, R132). -/
abbrev HoldFollows (p : Part) (s t : State) : Prop :=
  (t.table p).announced = announcedAfter (s.table p).announced (t.table p).stamp ∧
  t.slots p = { s.slots p with hold := (s.slots p).holdAfter (s.table p).announced (t.table p).stamp }

/-- Every announced stamp is that of its hold set (R129, R131, R132): present with it, and not above its hold stamp; an IDLE
context's table is empty (R136). -/
abbrev State.HoldsAnnounced (s : State) : Prop :=
  ∀ p : Fin 4,
    ((s.ctx p).state = .idle → s.table p = HoldTable.reset) ∧
    ((s.table p).stamp = none ↔ (s.table p).announced = none) ∧
    ∀ a ∈ (s.table p).announced, ∀ m ∈ (s.table p).stamp, a ≤ m

/-! Ports -/

/-- Every port that stands in DOWN while its condition is true enters TRAINING (R20). -/
def State.trainWilling (s : State) : State :=
  (allPorts.filter fun x => (s.port x).state == .down && s.condition x).foldl (fun t x => enterTraining x t) s

/-- What the loss of link `n` does at a child (R37): its egress queues are emptied (R53), its entry in every hold source
table and its pace source in every partition go (R134, R83), and every routed context in a run has CHILD_LINK in its FAULT
slot, unless a cause already waits there (R135). HOLD and PACE slots follow (R131, R132, R84). -/
abbrev ChildLost (n : Dn) (s t : State) : Prop :=
  t.egress n = Egress.reset ∧ (∀ k : Fin 6, k ≠ n → t.egress k = s.egress k) ∧
  ∀ p : Fin 4,
    t.ctx p = { s.ctx p with childSlow := upd (s.ctx p).childSlow n false, pace := t.paceOf p } ∧
    t.table p =
      { entries := upd (s.table p).entries (childEntry n) none
        announced := announcedAfter (s.table p).announced (t.table p).stamp } ∧
    t.slots p =
      { s.slots p with
        fault :=
          if s.inMask p n && (s.ctx p).inRun then
            some ((s.slots p).fault.getD ⟨.childLink, (s.dlink n).child, (s.ctx p).last⟩)
          else (s.slots p).fault
        hold := (s.slots p).holdAfter (s.table p).announced (t.table p).stamp
        pace := s.paceSlotAfter p (t.paceOf p) }

/-- Lines and kept levels of the hold unit, the position and the unit's other links: what the loss of a link leaves. -/
abbrev SameBeside (s t : State) : Prop :=
  SameStores s t ∧ t.hu.lines = s.hu.lines ∧ t.hu.kept = s.hu.kept ∧ t.lp.uArrival = s.lp.uArrival ∧
  t.lp.address = s.lp.address ∧ t.lp.depth = s.lp.depth ∧ t.lp.pathLat = s.lp.pathLat

/-- All but the contexts, the forwarder, the hold source tables, the port of link `n` and the log is the same. -/
abbrev SameOutsideLink (n : Dn) (s t : State) : Prop :=
  ((((t.sansLog.setPse s.pse).setCf s.cf).setHu s.hu).setLp s.lp) = (s.sansLog.setCf s.cf).setLp s.lp ∧
  SameBeside s t ∧ t.lp.echoes = s.lp.echoes ∧
  (∀ x ∈ allPorts, x ≠ .d n → (t.port x).sansLog = (s.port x).sansLog) ∧ ∀ k : Fin 6, k ≠ n → t.dlink k = s.dlink k

/-- A child's link `n` has left UP with the port left as `q`, raising `es` and counting `cs` beside LINK_DOWN and LINK_LOSS
(R37). -/
abbrev LinkFell (n : Dn) (q : Port) (es : List Event) (cs : List (PortId × Fin 8)) (s t : State) : Prop :=
  (t.port (.d n)).sansLog = q.sansLog ∧
  t.dlink n = { s.dlink n with measure := Measure.fresh, enumWaiting := false } ∧
  ChildLost n s t ∧ SameOutsideLink n s t ∧
  Logged (.linkDown :: es ++ paceEvents s t) ((.d n, kLinkLoss) :: cs) [] s t ∧ OnlyEventNotes s t

/-- Whether a port is in a state that the loss of its condition ends (R20). -/
def State.falls (s : State) (x : PortId) : Bool :=
  match (s.port x).state with
  | .training | .measuring | .waitEnum | .up => true
  | .down | .failed => false

/-- The record of a port once its condition is false (R20): DOWN unless FAILED. -/
def Port.dropped (p : Port) : Port := if p.state = .failed then p else { p with state := .down }

/-- A D port's work once its condition is false. -/
def State.droppedWork (s : State) (n : Dn) : DLink :=
  if s.falls (.d n) then { s.dlink n with measure := Measure.fresh, enumWaiting := false } else s.dlink n

/-- A context that is faulted with `cause` where it is in a run (R79), and counts a second fault where it is FAULTED
(R80). -/
def Context.struck (c : Context) (cause : FaultCause) : Context :=
  match c.state with
  | .idle => c
  | .faulted => { c with second := satSucc c.second }
  | .armed | .running | .freezing | .frozen =>
    { c with state := .faulted, fault := some cause, queue := [], queueSlow := false }

/-- What the loss of the reference does, by R36 with cause UPLINK or by R40 with cause REFERENCE: the unit leaves LOCKED, and
settles at once while its source signal is there (R39); every context is struck; every D port that is not FAILED goes to
DOWN, those that were UP with the effects of R37, and no cell is left on any link (R19). -/
abbrev ReferenceGone (cause : FaultCause) (s t : State) : Prop :=
  t.ref.state = (if (if s.isRoot then t.ref.refin else t.lp.uport.signal) then .settling else .unlocked) ∧
  t.ref.timer = 0 ∧
  (∀ n : Fin 6,
    (t.port (.d n)).sansLog = (s.port (.d n)).dropped.silenced.sansLog ∧ t.dlink n = s.droppedWork n ∧
    t.egress n = if s.isUp (.d n) then Egress.reset else s.egress n) ∧
  ∀ p : Fin 4,
    t.ctx p =
      { (s.ctx p).struck cause with
        childSlow := tab fun n => look (s.ctx p).childSlow n && !s.isUp (.d n)
        pace := t.paceOf p } ∧
    (∀ i : Fin 4, look (t.table p).entries (stallEntry i) = look (s.table p).entries (stallEntry i)) ∧
    ∀ n : Fin 6,
      look (t.table p).entries (childEntry n) = if s.isUp (.d n) then none else look (s.table p).entries (childEntry n)

/-- The same loss at a child, with its summary slots: the FAULT slot of a struck context takes `cause` unless a cause waits
there (R79, R56), HOLD and PACE slots follow; all else is the same, U's record apart. -/
abbrev ReferenceGoneAtChild (cause : FaultCause) (s t : State) : Prop :=
  ReferenceGone cause s t ∧
  (∀ p : Fin 4,
    (t.table p).announced = announcedAfter (s.table p).announced (t.table p).stamp ∧
    t.slots p =
      { s.slots p with
        fault :=
          if (s.ctx p).inRun then some ((s.slots p).fault.getD ⟨cause, s.ownAddr, (s.ctx p).last⟩)
          else (s.slots p).fault
        hold := (s.slots p).holdAfter (s.table p).announced (t.table p).stamp
        pace := s.paceSlotAfter p (t.paceOf p) }) ∧
  (((((t.sansLog.setPse s.pse).setCf s.cf).setHu s.hu).setLp s.lp).setRef s.ref) =
    (s.sansLog.setCf s.cf).setLp s.lp ∧
  t.ref.refin = s.ref.refin ∧ SameBeside s t

/-- The events of a loss of the reference: REF_LOST, LINK_DOWN where a port was UP, PART_FAULT where a context was in a run. -/
def State.goneEvents (s : State) : List Event :=
  .refLost :: (if allPorts.any s.isUp then [.linkDown] else [])
    ++ if allParts.any fun p => (s.ctx p).inRun then [.partFault] else []

/-- LINK_LOSS of every port that is UP. -/
def State.goneCounters (s : State) : List (PortId × Fin 8) := (allPorts.filter s.isUp).map fun x => (x, kLinkLoss)

/-- A child's reference has gone with its U port, left as `q`, raising `es` and counting `cs` beside what the loss of the
reference brings (R36). `s` is the state with the arrival noted, if a cell's arrival is the cause. -/
abbrev UplinkFell (q : Port) (es : List Event) (cs : List (PortId × Fin 8)) (s t : State) : Prop :=
  ReferenceGoneAtChild .uplink s t ∧ (t.port .u).sansLog = q.silenced.sansLog ∧
  t.lp.echoes = (if s.falls .u then [] else s.lp.echoes) ∧
  Logged (s.goneEvents ++ es ++ paceEvents s t) (s.goneCounters ++ cs) [] s t ∧ OnlyEventNotes s t

/-- The root without the cells that wait for the controller: what the controller port's leaving UP discards (R38). -/
def State.controllerLost (s : State) (q : Port) : State :=
  (s.setCf { s.cf with noteQ := [], respQ := [] }).setLp { s.lp with uport := q, echoes := [] }

/-- A port after an attempt of it has failed (R22): FAILED at a D port that has failed fifteen times, else in a new attempt
window. -/
def State.attemptFailed (s : State) (x : PortId) : State :=
  let a := min 15 ((s.port x).attempts + 1)
  let t := endWork x s
  if x ≠ .u ∧ 15 ≤ a then t.setPort x { (t.port x).silenced with attempts := a, state := .failed }
  else t.setPort x { t.port x with attempts := a, state := .training, trainRun := 0, windowFrom := s.now }

/-- LINK_FAILED, where the attempt that fails is a D port's fifteenth (R22). -/
def State.failEvents (s : State) (x : PortId) : List Event :=
  if x ≠ .u ∧ 14 ≤ (s.port x).attempts then [.linkFailed] else []

/-- The rows at which output line `i` may change its level: the resets, a write to it, and for a line in DOMAIN mode START
and ABORT of its partition and the execution of a step of it (R98, R101, R102, R104, R107). -/
def State.mayMove (s : State) (c : Instr) (i : Fin 16) : Bool :=
  match c with
  | .powerOnReset _ | .porstAsserted | .cmdResetHub _ => true
  | .outputWrite r => r.index.toNat % 16 == i.val
  | .stepExecution p => s.onDomainOf (s.out i) p && (s.ctx p).executes
  | .start _ p _ | .abort _ p => s.onDomainOf (s.out i) p
  | .cmdStart r | .cmdAbort r => s.onDomainOf (s.out i) (Fin.ofNat 4 r.index.toNat)
  | _ => false

/-! Management -/

/-- The response queue after the answer to `r` (R59, R160, R38): the MRSP joins unless the request asks for none, the queue
is full, or the root's controller port is not UP. -/
def State.answersWith (s : State) (r : Request) (st : Status) (v : Nat) : State :=
  if r.noResponse || !s.upstreamOpen || decide (8 ≤ s.cf.respQ.length) then s
  else s.setCf { s.cf with respQ := s.cf.respQ ++ [s.responseTo r st v] }

/-- RESPONSE_DROP, where the answer to `r` finds the response queue full (R59). -/
def State.dropsAnswer (s : State) (r : Request) : List (PortId × Fin 8) :=
  if !r.noResponse && s.upstreamOpen && decide (8 ≤ s.cf.respQ.length) then [(.u, kResponseDrop)] else []

/-- A hub that takes events and whose agent takes request `r` now, which is of row `row` and which steps 1 to 4 of R160
pass. -/
abbrev State.Takes (s : State) (row : AgentRow) (r : Request) : Prop :=
  s.Ready ∧ s.mayTake r = true ∧ r.row = row ∧ s.refusal r = none

/-- A command leads to exactly the state `e` with the answer to `r` placed (R12, R160), or, where the answer finds no room, to
`e` but for the log. -/
abbrev Answers (c : Instr) (r : Request) (s e : State) (st : Status) (v : Nat) : Prop :=
  ∃ t, exec c s = .next t ∧
    if s.dropsAnswer r = [] then t = e.answersWith r st v else SameButLog [] (s.dropsAnswer r) [] e t

/-- The outcome of a request as data: the state it leaves, the status and the response VALUE. -/
abbrev Outcome := State × Status × Nat

/-- A request refused: nothing changes and VALUE is zero (R12). -/
def State.declines (s : State) (st : Status) : Outcome := (s, st, 0)

/-- A value taken as `held`, OK or CLAMPED by whether it is the value written (R161). -/
def State.holds (s : State) (written held : Nat) : Outcome := (s, if written = held then .ok else .clamped, held)

/-- A command has an outcome, the answer to `r` placed. -/
abbrev AnswersAs (c : Instr) (r : Request) (s : State) (o : Outcome) : Prop := Answers c r s o.1 o.2.1 o.2.2

/-- A 40-bit number with its high eight bits replaced (R161). -/
def hiReplaced (n v : Nat) : Nat := v * 2 ^ 32 + n % 2 ^ 32

/-- A 40-bit number with its low thirty-two bits replaced (R161). -/
def loReplaced (n v : Nat) : Nat := n / 2 ^ 32 * 2 ^ 32 + v

/-! The root -/

/-- The root's own context stands where its record does (R63, R75): IDLE with it; while the record is RUNNING, ARMED or
RUNNING; while it is FREEZING or FROZEN, in FREEZING or FROZEN at the same freeze point; expecting the record's next
step. -/
abbrev State.RootContextFollows (s : State) : Prop :=
  s.isRoot = true → ∀ p : Fin 4,
    ((s.rootRec p).state = .idle ↔ (s.ctx p).state = .idle) ∧
    ((s.rootRec p).state = .running → ((s.ctx p).state = .armed ∨ (s.ctx p).state = .running)) ∧
    ((s.rootRec p).stands = true →
      ((s.ctx p).state = .freezing ∨ (s.ctx p).state = .frozen) ∧ (s.ctx p).freeze = (s.rootRec p).freeze) ∧
    ((s.rootRec p).state = .running ∨ (s.rootRec p).stands = true →
      (s.ctx p).expected = (s.rootRec p).next ∧ (s.ctx p).epoch = (s.rootRec p).epoch)

/-- At the root, of every partition but `p` nothing moves but the pace state and with it the slow flag (R84, R60). -/
abbrev OthersOnlyPace (p : Part) (s t : State) : Prop :=
  ∀ q : Fin 4, q ≠ p →
    t.ctx q = { s.ctx q with pace := t.paceOf q } ∧ t.rootRec q = { s.rootRec q with slow := (t.rootRec q).slow }

/-- The notes `l` have joined the note queue in their order, where no event makes notes and as far as there is room (R59). -/
abbrev NotesJoin (l : List Note) (s t : State) : Prop :=
  s.ma.enables = 0#16 → s.cf.noteQ.length ≤ 16 →
    t.cf.noteQ = if s.upstreamOpen then (s.cf.noteQ ++ l).take 16 else s.cf.noteQ

/-- The STATE note of a record (R156). -/
def RootRec.note (p : Part) (r : RootRec) : Note := .state p r.state r.causes r.freeze r.lastIssued

/-- The STATE note of a record whose state has changed from that of `r` (R156). -/
def RootRec.noteAfter (p : Part) (r q : RootRec) : List Note := if q.state = r.state then [] else [q.note p]

/-- Whether a FREEZING record at freeze point `f` is FROZEN (R147): the step before it was issued A RP ago or earlier, or no
step was issued and it is the epoch. -/
def RootRec.isOver (r : RootRec) (f budget now : Nat) : Bool :=
  match r.lastIssued, r.lastIssueTime with
  | some l, some t => l + 1 == f && decide (t + budget ≤ now)
  | none, _ => r.epoch == f
  | some _, none => false

/-- The record that a stop request with candidate `f` leaves, `causes` standing (R144, R147). -/
def RootRec.stopsAt (r : RootRec) (f : Nat) (causes : Causes) (budget now : Nat) : RootRec :=
  if ∀ g ∈ r.freeze, f < g then
    { r with freeze := some f, causes := causes, state := if r.isOver f budget now then .frozen else .freezing }
  else { r with causes := causes }

/-- The record after its next step is issued at RP `now` (R140, R141, R155). -/
def RootRec.issuesAt (r : RootRec) (now : Nat) : RootRec :=
  let q := if r.slow then min (2 * r.period) 1048575 else r.period
  { r with
    lastIssued := some r.next
    lastIssueTime := some now
    nextIssue := some (now + (r.acc + q) / 16)
    acc := (r.acc + q) % 16
    pendingSwap := if r.pendingSwap = some r.next then none else r.pendingSwap }

/-- The record with the slow flag that the pace state of `p` in `t` gives it, if that state has changed (R141, R60). -/
def RootRec.paced (r : RootRec) (p : Part) (s t : State) : RootRec :=
  if t.paceOf p = (s.ctx p).pace then r else { r with slow := t.paceOf p }

/-- The freeze point and the cause of a count of `n` further steps, neither for 0 (R150, R151). -/
def RootRec.countPoint (r : RootRec) (n : Nat) : Option Nat := if n = 0 then none else some (min freezeMax (r.next + n))

/-- The causes that a count of `n` further steps begins with (R150, R151). -/
def RootRec.countCauses (r : RootRec) (n : Nat) : Causes :=
  if n = 0 then Causes.none
  else { Causes.none with count := decide (r.next + n ≤ freezeMax), limit := decide (freezeMax < r.next + n) }

/-- A context to which a FREEZE is sent where there is a freeze point. -/
def Context.countedTo (c : Context) (f : Option Nat) (causes : Causes) (now : Nat) : Context :=
  match f with
  | some f => c.stoppedAt f causes now
  | none => c

/-- The FREEZE cell of a count, where there is one (R150, R151). -/
def freezeOf (p : Part) (f : Option Nat) (causes : Causes) : List Instr :=
  match f with
  | some f => [.freeze .u p f causes false]
  | none => []

/-- The record that goes on with a count of `n` further steps, 0 for none (R149, R150). -/
def RootRec.goesOn (r : RootRec) (n : Nat) : RootRec :=
  { r with
    freeze := r.countPoint n
    causes := r.countCauses n
    state := if n = 0 then .running else .freezing
    pendingCount := none }

/-- Whether the next issue time of a record has been reached (R142). -/
def RootRec.isDue (r : RootRec) (now : Nat) : Bool := r.nextIssue.any fun a => decide (a ≤ now)

/-- The record after its next step is issued at RP `now`, with the limit at step 2^40 − 2 (R140, R143). -/
def RootRec.stepsOn (r : RootRec) (now : Nat) : RootRec :=
  let q := r.issuesAt now
  if r.next ≠ stepMax then q
  else
    { q with
      causes := { r.causes with limit := true }
      freeze := some (r.freeze.getD freezeMax)
      state := if r.freeze = none then .freezing else r.state }

/-- The freeze point that the issue of the next step of a record sets, where it sets one (R143). -/
def RootRec.limitPoint (r : RootRec) : Option Nat := if r.next = stepMax ∧ r.freeze = none then some freezeMax else none

/-- The record that a FAULT report takes to FAULTED (R148): a freeze point at the next step, unless one no higher stands. -/
def RootRec.faultedBy (r : RootRec) (f : FaultReport) : RootRec :=
  { r with
    state := .faulted
    fault := some f
    causes := { r.causes with fault := true }
    freeze := if ∀ g ∈ r.freeze, r.next < g then some r.next else r.freeze
    nextIssue := none }

/-- The freeze point that a FAULT report sets in a record, where it sets one (R148). -/
def RootRec.faultPoint (r : RootRec) : Option Nat := if ∀ g ∈ r.freeze, r.next < g then some r.next else none

/-- A context that has taken step `n`, which expires at `expiry` where the partition is local (R66, R71, R77, R82). -/
def Context.stepped (c : Context) (n expiry high now : Nat) (isLocal : Bool) : Context :=
  if isLocal then
    { c with
      expected := n + 1
      queue := c.queue ++ [⟨n, expiry⟩]
      queueSlow := c.queueSlow || decide (high ≤ c.queue.length + 1) }
  else
    { c with
      expected := n + 1
      last := some n
      state := if c.freeze = some (n + 1) then .frozen else if c.state = .armed then .running else c.state
      frozenMark := if c.freeze = some (n + 1) then now else c.frozenMark }

/-- Whether the next step that the root issues overruns the hold queue of its own context (R67, R75). -/
def State.issueOverruns (s : State) (p : Part) : Bool := (s.route p).isLocal && decide (128 ≤ (s.ctx p).queue.length)

/-- The issue of the next step of record `q` of `p`, which finds the root's own context as `c` and follows the cells `cells`
of the same event (R140, R46): the STEP, and at 2^40 − 2 the FREEZE of the limit (R143), go to the own context and to the
routed links. Where the own hold queue is full the context faults with OVERRUN (R67, R79), and its report takes the record
to FAULTED with a FREEZE that stops the run at its next step (R148). -/
abbrev RootIssues (p : Part) (q : RootRec) (c : Context) (cells : List Instr) (s t : State) : Prop :=
  let z := q.stepsOn s.now
  let sent := cells ++ .step .u p q.next 0 :: freezeOf p q.limitPoint z.causes
  (s.issueOverruns p = false →
    t.rootRec p = z.paced p s t ∧ (∀ k : Fin 6, t.egress k = s.copiedAll sent p k) ∧
    t.ctx p =
      { (c.stepped q.next (s.now + s.ma.hub.budget) s.ma.hub.high s.now (s.route p).isLocal).countedTo q.limitPoint
          z.causes s.now with pace := t.paceOf p }) ∧
  (s.issueOverruns p = true →
    (let y := z.faultedBy ⟨.overrun, 0x0000#16, c.last⟩
     { t.rootRec p with slow := y.slow } = y ∧
     ((t.rootRec p).slow = t.paceOf p ∨ (t.rootRec p).slow = q.slow) ∧
     (∀ k : Fin 6, t.egress k = s.copiedAll (sent ++ freezeOf p z.faultPoint y.causes) p k)) ∧
    t.ctx p = { c.struck .overrun with expected := q.next + 1, pace := t.paceOf p } ∧ t.latched .partFault = true) ∧
  OthersOnlyPace p s t

/-- The STATE note of the FAULTED record, where an issue has overrun the own context (R148, R156). -/
def State.overrunNote (s : State) (p : Part) (t : State) : List Note :=
  if s.issueOverruns p then [(t.rootRec p).note p] else []

/-- The record at the end of its resume with a count of `n` further steps (R149): a step that is due is issued (R142). -/
def RootRec.afterResume (r : RootRec) (n now : Nat) : RootRec :=
  if r.isDue now then (r.goesOn n).stepsOn now else r.goesOn n

/-- The resume of `p` with a count of `n` further steps, 0 for none (R149, R150, R142): RESUME, FREEZE of the count, and the
STEP that is due are made in this order; the record and the root's own context follow; a STATE note is made (R156). -/
abbrev RootResumes (p : Part) (n : Nat) (s t : State) : Prop :=
  let r := s.rootRec p
  let q := r.goesOn n
  let c := ((s.ctx p).goesOn).countedTo q.freeze q.causes s.now
  let cells := .resume .u p (r.freeze.getD 0) :: freezeOf p q.freeze q.causes
  (r.isDue s.now = false →
    (∀ k : Fin 6, t.egress k = s.copiedAll cells p k) ∧ t.rc = upd s.rc p q ∧ t.pse = upd s.pse p c ∧
    NotesJoin [q.note p] s t) ∧
  (r.isDue s.now = true →
    RootIssues p q c cells s t ∧ NotesJoin ((r.afterResume n s.now).note p :: s.overrunNote p t) s t)

/-- A stop request of `p` with candidate `f`: where it sets or lowers the freeze point, a FREEZE stops the root's own
context and is copied to the routed links (R144, R46). `s` has the record as it stood, `q` is the record after. -/
abbrev RootStops (p : Part) (f : Nat) (causes : Causes) (short : Bool) (q : RootRec) (s t : State) : Prop :=
  t.rc = upd s.rc p q ∧ NotesJoin ((s.rootRec p).noteAfter p q) s t ∧
  (if ∀ g ∈ (s.rootRec p).freeze, f < g then
    t.pse = upd s.pse p ((s.ctx p).stoppedAt f causes s.now) ∧
    (∀ n : Fin 6, t.egress n = s.copied (.freeze .u p f causes short) p n) ∧
    Logged ((if short then [.leadShort] else []) ++ s.copyEvents p Egress.urgentFull) (s.copyLosses p Egress.urgentFull) []
      s t
  else t.pse = s.pse ∧ t.cf.egress = s.cf.egress ∧ Logged [] [] [] s t)

/-- At the root, all but the contexts, the egress queues, the records and the log is the same. -/
abbrev SameOutsideRoot (s t : State) : Prop :=
  ((t.sansLog.setPse s.pse).setCf s.cf).setRc s.rc = s.sansLog.setCf s.cf ∧ SameStores s t ∧ t.cf.slots = s.cf.slots

/-- A command to a root record answered OK with VALUE the code of state `st`: contexts, egress queues, records and log apart,
nothing changes but the agent's queue and the response queue (R12, R162). -/
abbrev RootAnswers (r : Request) (st : RootState) (s t : State) : Prop :=
  ((t.sansLog.setPse s.pse).setCf s.cf).setRc s.rc = ((takeHead s).sansLog).setCf s.cf ∧
  t.cf.routes = s.cf.routes ∧ t.cf.lastServed = s.cf.lastServed ∧ t.cf.slots = s.cf.slots ∧
  t.cf.respQ = (s.answersWith r .ok st.code).cf.respQ

/-! Execution -/

/-- Whether trigger line `i` is sampled at an execution of `p` (R114). -/
def State.trigSampled (s : State) (p : Part) (i : Fin 8) : Bool := (s.trig i).enable && (s.trig i).part == p

/-- The sample of trigger line `i`: the level at least two of its three kept levels show (R113). -/
def State.sampleOf (s : State) (i : Fin 8) : Bool := (look s.tu.kept i).majority

/-- Whether the sample of line `i` matches at an execution of `p` (R115). -/
def State.matches (s : State) (p : Part) (i : Fin 8) : Bool :=
  s.trigSampled p i && (s.trig i).mode.hit (s.prev p i) (s.sampleOf i)

/-- Whether line `i` fires at an execution of `p` (R116). -/
def State.fires (s : State) (p : Part) (i : Fin 8) : Bool :=
  s.matches p i && decide ((s.trig i).target ≤ (s.trig i).count + 1)

/-- The lines that fire at an execution of `p`, in line order (R117). -/
def State.firing (s : State) (p : Part) : List (Fin 8) := allTrigs.filter fun i => s.fires p i

/-- The record of line `i` after an execution of `p` (R116). -/
def State.trigAfter (s : State) (p : Part) (i : Fin 8) : TrigLine :=
  let l := s.trig i
  if s.fires p i then { l with count := 0, fired := satSucc l.fired, enable := l.enable && l.repeats }
  else if s.matches p i then { l with count := l.count + 1 }
  else l

/-- A capture table of 16 records after one more is offered (R122, R123). -/
def captured (keepNewest : Bool) (l : List Capture) (c : Capture) : List Capture :=
  if l.length < 16 then l ++ [c] else if keepNewest then l.drop 1 ++ [c] else l

/-- No line of `p` can ask the root to stop: what is asked where the root's own lines are left aside. -/
def State.quiet (s : State) (p : Part) : Bool :=
  (allTrigs.all fun i => !(s.trigSampled p i && (s.trig i).halts)) &&
    ([0, 1, 2, 3] : List (Fin 4)).all fun i => !s.stallSampled p i

/-- The stall lines whose entries change at a sampling of `p` with stamp `m` (R128). -/
def State.stallsMoving (s : State) (p : Part) (m : Nat) : List (Fin 4) :=
  ([0, 1, 2, 3] : List (Fin 4)).filter fun i =>
    s.stallSampled p i && look (s.table p).entries (stallEntry i) != s.sampledEntry p m i

/-- A sampling of the stall lines of `p` with stamp `m` (R127, R128): a sampled line's qualified level is kept; an asserted
one makes its entry active with the stamp unless it is active, one that is not makes it inactive; the child entries stay. -/
abbrev StallsSampled (p : Part) (m : Nat) (s t : State) : Prop :=
  (∀ i : Fin 4,
    t.stall i = (if s.stallSampled p i then { s.stall i with qualified := (look s.hu.kept i).majority } else s.stall i) ∧
    look (t.table p).entries (stallEntry i) =
      (if s.stallSampled p i then
        if (look s.hu.kept i).majority != (s.stall i).activeLow then
          some ((look (s.table p).entries (stallEntry i)).getD m)
        else none
      else look (s.table p).entries (stallEntry i))) ∧
  (∀ n : Fin 6, look (t.table p).entries (childEntry n) = look (s.table p).entries (childEntry n)) ∧
  t.hu.kept = s.hu.kept ∧ ∀ q : Fin 4, q ≠ p → t.table q = s.table q

/-- What a sampling of the root's own stall lines of `p` with stamp `m` does to a run (R133, R145, R146): a hold set that was
empty and is so no longer brings STALL and a freeze point no higher than its candidate; one that has become empty takes
STALL away. -/
abbrev RootStalls (p : Part) (m : Nat) (s t : State) : Prop :=
  (s.rootRec p).state = .running ∨ (s.rootRec p).stands = true →
  ((s.table p).stamp = none → (t.table p).stamp ≠ none →
    (t.rootRec p).causes.stall = true ∧
    ∃ f ∈ (t.rootRec p).freeze, f ≤ min freezeMax (max (m + (s.rootRec p).lead) (s.rootRec p).next)) ∧
  ((s.table p).stamp ≠ none → (t.table p).stamp = none → (t.rootRec p).causes.stall = false)

/-! Invariants -/

/-- Each port is where its condition lets it be (R20): in DOWN only while its condition is false, in TRAINING, MEASURING,
WAIT_ENUM or UP only while it is true; and in a state that Table 2-2 gives it. -/
abbrev State.PortFollows (s : State) (x : PortId) : Prop :=
  ((s.port x).state = .down → s.condition x = false) ∧
  ((s.port x).state = .training ∨ s.aligned x = true → s.condition x = true) ∧
  ((s.port x).state = .measuring → x ≠ .u) ∧
  ((s.port x).state = .waitEnum → x = .u ∧ s.isRoot = false)

/-- Every port follows its condition (R20, Table 2-5). -/
abbrev State.LinksFollow (s : State) : Prop := ∀ x ∈ allPorts, s.PortFollows x

/-- The queues of one downstream link are within Table 3-3. -/
abbrev Egress.Bounded (g : Egress) : Prop := g.urgent.length ≤ 8 ∧ g.steps.length ≤ 16 ∧ g.mgmt.length ≤ 16

/-- Every queue and table holds at most what the manual gives it: egress queues (R51), note and response queues (R59), agent
request queue (R159), capture table (R122), hold queues (R71), pending swap records (R105). -/
abbrev State.QueuesBounded (s : State) : Prop :=
  (∀ n : Fin 6, (s.egress n).Bounded) ∧ s.cf.noteQ.length ≤ 16 ∧ s.cf.respQ.length ≤ 8 ∧ s.ma.queue.length ≤ 4 ∧
  s.tu.captures.length ≤ 16 ∧ (∀ p : Fin 4, (s.ctx p).queue.length ≤ 128 ∧ (s.dpart p).swaps.length ≤ 4)

/-- Hold queue entries whose steps are `b`, `b` + 1 and so on (R71). -/
def consecutive : Nat → List HoldEntry → Bool
  | _, [] => true
  | b, e :: l => e.step == b && consecutive (b + 1) l

/-- The step that a context executes next: one above the last executed step, or the epoch. -/
def Context.nextStep (c : Context) : Nat :=
  match c.last with
  | some l => l + 1
  | none => c.epoch

/-- A running context's hold queue holds the consecutive steps from its next step to the one before the expected next step,
and none is above 2^40 − 2 (R66, R71). -/
abbrev Context.Queued (c : Context) : Prop :=
  consecutive c.nextStep c.queue = true ∧ c.expected = c.nextStep + c.queue.length ∧
    (c.queue ≠ [] → c.expected ≤ freezeMax)

/-- The law of a context by its state (Table 4-2, R66, R68, R71, R76): no freeze point is held in ARMED and RUNNING; in
FREEZING every waiting step is below it and the step before it is still to come; in FROZEN every step below it has been
executed; in IDLE and FAULTED nothing waits. -/
abbrev Context.Orderly (c : Context) : Prop :=
  (c.inRun = false → c.queue = []) ∧
  (c.inRun = true → c.Queued) ∧
  (c.state = .armed → c.last = none ∧ c.freeze = none) ∧
  (c.state = .running → c.last.isSome = true ∧ c.freeze = none) ∧
  (c.state = .freezing → c.freeze.isSome = true ∧ ∀ f ∈ c.freeze, c.expected ≤ f ∧ c.nextStep < f) ∧
  (c.state = .frozen → c.freeze = some c.nextStep ∧ c.queue = [])

/-- Every context is orderly, holds no step above 2^40 − 2 as its last (R66), and has no hold queue where its partition is
not local (R64). -/
abbrev State.StepsOrdered (s : State) : Prop :=
  ∀ p : Fin 4, (s.ctx p).Orderly ∧ (s.ctx p).last.getD 0 ≤ stepMax ∧ ((s.route p).isLocal = false → (s.ctx p).queue = [])

/-- Every held pace state is the one that its sources give (R84, Table 4-5). -/
abbrev State.PaceFollows (s : State) : Prop := ∀ p : Fin 4, (s.ctx p).pace = s.paceOf p

/-- The law of a root record by its state (R140, R142, R143, R144, R147, R148, R154): a RUNNING record holds no freeze point
and has a step to issue; a FREEZING one holds a freeze point that is not below its next step, and a FROZEN one a freeze
point equal to it; each of the three holds a next issue time, and the others none; LIMIT stands once no step is left; a
pending count is 1 or more (Table 8-1). -/
abbrev RootRec.Orderly (r : RootRec) : Prop :=
  (r.state = .idle → r.freeze = none) ∧
  (r.state = .idle ∨ r.state = .faulted → r.nextIssue = none) ∧
  (r.state = .running ∨ r.stands = true → r.nextIssue.isSome = true) ∧
  (r.state = .running → r.freeze = none ∧ r.next ≤ stepMax) ∧
  (r.state = .freezing → r.freeze.isSome = true ∧ ∀ f ∈ r.freeze, r.next ≤ f ∧ f ≤ freezeMax) ∧
  (r.state = .frozen → r.freeze = some r.next ∧ r.next ≤ freezeMax) ∧
  (r.stands = true → r.next = freezeMax → r.causes.limit = true) ∧
  (r.state = .faulted → r.freeze.isSome = true) ∧
  r.pendingCount ≠ some 0

/-- At the root every record is orderly; at a child every record keeps its reset values (R138). -/
abbrev State.RootLawful (s : State) : Prop :=
  ∀ p : Fin 4, (s.isRoot = true → (s.rootRec p).Orderly) ∧ (s.isRoot = false → s.rootRec p = RootRec.reset)

/-- The position of the root is fixed (R18, Table 2-3), and its controller port has no latencies (R38). -/
abbrev State.RootPlaced (s : State) : Prop :=
  s.isRoot = true → s.lp.address = some 0x0000#16 ∧ s.lp.depth = some 0 ∧ s.lp.pathLat = 0 ∧
    s.lp.uport.linkLat = 0 ∧ s.lp.uport.pathLat = 0

/-- Whether the lines of a partition stand at rest by R100 and R101: IDLE, no step executed since START, or not local. -/
def State.restsAt (s : State) (p : Part) : Bool :=
  s.idleAt p || (s.ctx p).last.isNone || !(s.route p).isLocal

/-- Every line that R100, R101 and R104 give its rest level has it, on its pin too: one in CONSTANT mode, and one in DOMAIN
mode whose partition rests. -/
abbrev State.LinesRest (s : State) : Prop :=
  s.porst = false → ∀ i : Fin 16,
    (s.out i).domain = false ∨ s.restsAt (look s.dg.slots (s.out i).slot) = true →
      (s.out i).level = (s.out i).rest ∧ (s.out i).pin = (s.out i).rest

/-- The fields of a port are within Table 2-1. -/
abbrev Port.InRange (p : Port) : Prop :=
  p.attempts ≤ 15 ∧ p.badRun ≤ 4 ∧ p.linkLat ≤ 4095 ∧ p.pathLat ≤ 16383 ∧
    (p.state = .measuring ∨ p.state = .waitEnum ∨ p.state = .up → p.badRun ≤ 3) ∧
    ∀ k : Fin 8, look p.counters k ≤ counterMax

/-- A domain entry within Table 5-2. -/
abbrev DomainEntry.InRange (e : DomainEntry) : Prop :=
  2 ≤ e.period ∧ e.period ≤ 65535 ∧ e.phase ≤ 65535 ∧ 1 ≤ e.duty ∧ e.duty ≤ 63

/-- A trigger line within Table 6-1: its count stays below its target. -/
abbrev TrigLine.InRange (l : TrigLine) : Prop :=
  1 ≤ l.target ∧ l.target ≤ 65535 ∧ l.count < l.target ∧ l.fired ≤ counterMax

/-- The HUB settings within Table 9-1. -/
abbrev HubSettings.InRange (h : HubSettings) : Prop :=
  64 ≤ h.budget ∧ h.budget ≤ 16383 ∧ 2 ≤ h.high ∧ h.high ≤ 127 ∧ 1 ≤ h.low ∧ h.low < h.high

/-- The settings and the accumulator of a root record within Table 8-1. -/
abbrev RootRec.InRange (r : RootRec) : Prop :=
  r.epoch ≤ freezeMax ∧ r.swapStep ≤ freezeMax ∧ 1 ≤ r.lead ∧ r.lead ≤ 4095 ∧ 256 ≤ r.period ∧ r.period ≤ 1048575 ∧
    r.acc ≤ 15

/-- Every stored field is within the range its table gives it. -/
abbrev State.FieldsInRange (s : State) : Prop :=
  (∀ x ∈ allPorts, (s.port x).InRange) ∧ s.lp.pathLat ≤ 16383 ∧ s.ref.timer ≤ 8192 ∧
  (∀ i : Fin 32, (look s.dg.entries i).InRange) ∧ (∀ i : Fin 8, (s.trig i).InRange) ∧ s.ma.hub.InRange ∧
  (∀ k : Fin 3, s.hubCounter k ≤ counterMax) ∧
  ∀ p : Fin 4, (s.rootRec p).InRange ∧ (s.ctx p).second ≤ counterMax

/-- The swap steps that wait in a record rise strictly, and none is below the next step of a context in a run (R105,
R106); none waits where the context is IDLE (R93) or the partition not local (R100). -/
abbrev State.SwapsOrdered (s : State) : Prop :=
  ∀ p : Fin 4,
    (s.dpart p).swaps.Pairwise (fun v w => v < w) ∧
    ((s.ctx p).inRun = true → ∀ w ∈ (s.dpart p).swaps, (s.ctx p).nextStep ≤ w) ∧
    ((s.ctx p).state = .idle ∨ (s.route p).isLocal = false → (s.dpart p).swaps = [])

end Sys2Proof.Machine
end

