-- ==== Sys2Proof/Certificates/Slice0/Obligations.lean ====
section
/-! DEFINITION. The statements about the machine, for the provers. OBLIGATIONS.json lists them. -/

open Sys2Proof Sys2Proof.Machine

/-! What every command shares -/

/-- For every command c and state s, step with c at the front of the queue is exec c on s with the queue's rest.
With an empty queue step answers the same state: the model's own choice (log entry 8). -/
def Obligations.StepTakesFrontCommand : Prop :=
  ∀ (c : Instr) (rest : List Instr) (s : State),
    step { s with pending := c :: rest } = exec c { s with pending := rest } ∧
    step { s with pending := [] } = .next { s with pending := [] }

/-- Every command in every state answers a next state: no command faults and none is refused. The queue of waiting
commands is not touched, and a command that starts with nothing unplaced (the model's own lists of made notes
and reports, log entry 3) leaves nothing unplaced. What a command records is kept: an event whose latch it sets
while the enable is set has its EVENT note at the tail of the note queue, where that queue takes notes and is
not full; and a counter that it brings to 65535 raises COUNTER_SATURATED. -/
def Obligations.EveryCommandCompletes : Prop :=
  ∀ (c : Instr) (s : State),
    ∃ t, exec c s = .next t ∧ t.pending = s.pending ∧ (s.Settled → t.Settled ∧ Recorded s t)

/-- A row that time brings (settle timer, loss of lock, training window, round timeout, ENUM refresh, cell slots,
step execution, frozen sampling, step issue, root FROZEN) leaves the state as it is before its moment, or where
what it ends is not there. That such a row is no event is the model's own reading (log entry 6); the moments are
those of the cited rules, but for three that the model chooses: when a slot may begin (log entry 24), from when
an ENUM refresh counts (log entry 14), and the RP mark of a frozen context (log entry 26). -/
def Obligations.EarlyRowsDoNothing : Prop :=
  ∀ (x : PortId) (n : Dn) (p : Part) (s : State),
    s.Ready →
    (s.ref.state ≠ .settling ∨ s.ref.timer < 8192 → exec .settleTimerExpiry s = .next s) ∧
    (s.locked = false → exec .lossOfLock s = .next s) ∧
    (s.locked = false ∨ (s.port x).state ≠ .training ∨ s.now < (s.port x).windowFrom + 4096 →
      exec (.trainingWindowExpiry x) s = .next s) ∧
    (s.locked = false ∨ (s.port (.d n)).state ≠ .measuring ∨ (∀ a ∈ (s.dlink n).measure.sentAt, s.now < a + 1024) →
      exec (.roundTimeout n) s = .next s) ∧
    (s.locked = false ∨ s.isUp (.d n) = false ∨ s.now < (s.dlink n).refreshFrom + 4096 →
      exec (.enumRefreshExpiry n) s = .next s) ∧
    (s.transmits (.d n) = false ∨ s.now < (s.port (.d n)).nextSlot → exec (.dPortCellSlot n) s = .next s) ∧
    (s.transmits .u = false ∨ s.slotDueU = false → exec .uPortCellSlot s = .next s) ∧
    (s.locked = false ∨ (s.route p).isLocal = false ∨ (s.ctx p).executes = false ∨
        (∀ e ∈ (s.ctx p).queue.head?, s.now < e.expiry) →
      exec (.stepExecution p) s = .next s) ∧
    (s.locked = false ∨ (s.route p).isLocal = false ∨ (s.ctx p).state ≠ .frozen ∨ s.now ≤ (s.ctx p).frozenMark →
      exec (.frozenStallSampling p) s = .next s) ∧
    (s.isRoot = false ∨ s.locked = false ∨ ((s.rootRec p).state ≠ .running ∧ (s.rootRec p).state ≠ .freezing) ∨
        (∀ a ∈ (s.rootRec p).nextIssue, s.now < a) ∨ (∃ f ∈ (s.rootRec p).freeze, f ≤ (s.rootRec p).next) →
      exec (.stepIssue p) s = .next s) ∧
    (s.isRoot = false ∨ s.locked = false ∨ (s.rootRec p).state ≠ .freezing ∨
        (∀ f ∈ (s.rootRec p).freeze, (s.rootRec p).isOver f s.ma.hub.budget s.now = false) →
      exec (.rootFrozen p) s = .next s)

/-! Invariants that every step keeps -/

/-- The state right after the release of PORST#, strapped as a child and strapped as the root, meets every invariant
that the statements about steps keep, and State.reset is the child's (the strap is an input: log entry 1). -/
def Obligations.ResetMeetsInvariants : Prop :=
  ∀ (r : Role),
    (State.powerOn r).QueuesBounded ∧ (State.powerOn r).StepsOrdered ∧ (State.powerOn r).LinksFollow ∧
    (State.powerOn r).PaceFollows ∧ (State.powerOn r).RootLawful ∧ (State.powerOn r).LinesRest ∧
    (State.powerOn r).FieldsInRange ∧ (State.powerOn r).SwapsOrdered ∧ (State.powerOn r).HoldsAnnounced ∧
    (State.powerOn r).RootContextFollows ∧ (State.powerOn r).RootPlaced ∧ (State.powerOn r).Settled ∧
    State.reset = State.powerOn .child

/-- From every state, a step keeps each queue and table within the size the manual gives it, and keeps each stored
field (port records, settle timer, domain entries, trigger lines, HUB settings, counters, root settings and
accumulator) within the range of its table. -/
def Obligations.QueuesAndFieldsStayInRange : Prop :=
  ∀ (s t : State),
    step s = .next t →
    (s.QueuesBounded → t.QueuesBounded) ∧ (s.FieldsInRange → t.FieldsInRange)

/-- From every state whose contexts are orderly (the hold queue holds the consecutive steps from the next step to
the one before the expected one; freeze points stand where the context state says; nothing waits in IDLE and
FAULTED), a step leaves them orderly. It also keeps the swap records: rising, none below the next step of a run,
none where the context is IDLE or the partition not local. -/
def Obligations.StepsAndSwapsStayOrdered : Prop :=
  ∀ (s t : State),
    s.StepsOrdered →
    step s = .next t →
    t.StepsOrdered ∧ (s.SwapsOrdered → t.SwapsOrdered)

/-- A port is in DOWN only while its condition is false, and in TRAINING, MEASURING, WAIT_ENUM or UP only while it
is true; no D port is in WAIT_ENUM, no U port in MEASURING, no controller port in WAIT_ENUM. Every step keeps
this, from every state. -/
def Obligations.LinksKeepFollowing : Prop :=
  ∀ (s t : State),
    s.LinksFollow →
    step s = .next t →
    t.LinksFollow

/-- Every step keeps each held pace state equal to the one its sources give. Every step keeps each announced stamp
present with its hold set and not above the hold stamp, and the table of an IDLE context empty. -/
def Obligations.ReportsKeepFollowing : Prop :=
  ∀ (s t : State),
    step s = .next t →
    (s.PaceFollows → t.PaceFollows) ∧ (s.HoldsAnnounced → t.HoldsAnnounced)

/-- From a state with nothing unplaced, every step keeps each root record orderly by its state (freeze point, next
step, next issue time, LIMIT, a pending count of 1 or more) and, at a child, at its reset values. Where the
ports follow their conditions, every step keeps address 0x0000, depth 0, path latency 0 and the controller
port's zero latencies at the root. -/
def Obligations.RootStaysLawful : Prop :=
  ∀ (s t : State),
    step s = .next t →
    (s.RootLawful → s.Settled → t.RootLawful) ∧ (s.RootPlaced → s.LinksFollow → t.RootPlaced)

/-- At the root, every step keeps each own context where its record stands: IDLE with it, ARMED or RUNNING while it
is RUNNING, FREEZING or FROZEN at the same freeze point while it stands there, with the record's next step
expected and the record's epoch. -/
def Obligations.RootContextKeepsFollowing : Prop :=
  ∀ (s t : State),
    s.RootContextFollows →
    s.StepsOrdered →
    s.RootLawful →
    s.Settled →
    step s = .next t →
    t.RootContextFollows

/-- Over every step taking command c: an output line's level changes only at a reset, at a write to the line, and,
for a line in DOMAIN mode, at START, ABORT and step executions of its partition. Its pin takes the level an
execution gives it when the RP ends, so that a level replaced in the same RP does not appear (log entry 32). And
a line that R100, R101 or R104 gives its rest level keeps it. -/
def Obligations.OutputsKeepTheirLaw : Prop :=
  ∀ (c : Instr) (rest : List Instr) (i : Fin 16) (s t : State),
    s.pending = c :: rest →
    step s = .next t →
    (s.mayMove c i = false → (t.out i).level = (s.out i).level) ∧
    (s.mayMove c i = false ∨ (∃ p, c = .stepExecution p) →
      (t.out i).pin = if s.porst = false ∧ c.endsRp = true then (s.out i).level else (s.out i).pin) ∧
    (s.LinesRest → t.LinesRest)

/-! Cells, addresses and levels -/

/-- For every cell whose fields fit their bytes, its bytes are 16, its CHECK byte passes, and reading the bytes
gives the cell back in full where chapter 1 sets out its bytes (IDLE, STEP, ABORT, MREQ, NOTE, MRSP) and by its
kind otherwise; with any one of the bytes changed on the link it is a bad cell. A good MREQ, NOTE or MRSP that
is passed on goes on with the sixteen bytes it came with, unused bits and CHECK included (log entry 28). Of the
kinds given by field list, whose places the manual leaves open (that each has bytes and a code of its own is
deduced: log entry 5), every field stands in the body, most significant byte first, and what no field uses is
zero, in byte 1 all but the partition and at most one flag. -/
def Obligations.CellBytesReadBack : Prop :=
  ∀ (c : Cell) (i : Nat) (v : Byte) (bytes : List Byte),
    (c.Fits →
      (c.bytes.length = 16 ∧ checkPasses c.bytes = true ∧
        Received.ofBytes c.bytes = if c.isLaid then .cell c else .unlaid c.kind) ∧
      (i < 16 → c.bytes.getD i 0#8 ≠ v → Received.ofBytes (c.bytes.set i v) = .bad)) ∧
    (c.isLaid = false →
      (c.head.getD 1 0#8 = BitVec.ofNat 8 (c.part * 64) ∨
        c.mark = some true ∧ ∃ k < 6, c.head.getD 1 0#8 = BitVec.ofNat 8 (c.part * 64 + 2 ^ k)) ∧
      (∀ f ∈ c.fields, beBytes f.bytes f.value <:+: c.head.drop 2) ∧
      ((c.head.drop 2).filter (fun b => b != 0#8)).Perm
        ((c.fields.flatMap fun f => beBytes f.bytes f.value).filter fun b => b != 0#8)) ∧
    (Received.ofBytes bytes = .cell c → c.kind = .mreq ∨ c.kind = .note ∨ c.kind = .mrsp → c.bytes = bytes)

/-- For a hub at depth 2 or less, the address it gives the hub below on link n names a hub one deeper, with the same
hops and n added. Requests to it are routed below on n here, and are answered there; and whatever address is at
home there is routed below on n here. -/
def Obligations.ChildAddressesRoute : Prop :=
  ∀ (own x : Addr) (d : Nat) (n : Dn),
    own.namesHub = true →
    own.depth = d →
    d ≤ 2 →
    (own.child d n).namesHub = true ∧ (own.child d n).depth = d + 1 ∧
    (own.child d n).hops.take (d + 1) = own.hops.take d ++ [n.val] ∧
    (own.child d n).route own d = .below n ∧ (own.child d n).route (own.child d n) (d + 1) = .here ∧
    own.route (own.child d n) (d + 1) = .elsewhere ∧
    (x.route own d = .here ↔ x = own) ∧
    (x.route (own.child d n) (d + 1) = .here → x.route own d = .below n)

/-- For every CLOCK entry in range: H is (P*D+32)/64 rounded down, 1 for 0, P-1 for P or more; it lies between 1 and
P-1. From the phase on, each period holds H high steps followed by P-H low steps. Any P consecutive steps hold
exactly H high levels, one rising and one falling edge, and the level repeats after P steps. -/
def Obligations.ClockPeriods : Prop :=
  ∀ (en : DomainEntry) (e n j k : Nat),
    en.mode = .clock →
    en.InRange →
    e ≤ n →
    k < en.period →
    (let h := highTime en.period en.duty
     let raw := (en.period * en.duty + 32) / 64
     let levels := (List.range en.period).map fun i => (entryLevel en e (n + i), entryLevel en e (n + i + 1))
     h = (if raw = 0 then 1 else if en.period ≤ raw then en.period - 1 else raw) ∧
     1 ≤ h ∧ h ≤ en.period - 1 ∧
     entryLevel en e (e + en.phase % en.period + j * en.period + k) = decide (k < h) ∧
     (levels.filter fun l => l.1).length = h ∧
     (levels.filter fun l => !l.1 && l.2).length = 1 ∧
     (levels.filter fun l => l.1 && !l.2).length = 1 ∧
     entryLevel en e (n + en.period) = entryLevel en e n)

/-! Resets and time -/

/-- POWER_ON_RESET in every state answers a next state in which every register, queue, counter and table has the
value the manual gives after power-on reset, with the role that ROOTSEL selects, and the queue of waiting
commands kept. The values of the model's own fields are not stated (log entries 1, 9 and 25). -/
def Obligations.PowerOnResetValues : Prop :=
  ∀ (b : Bool) (s : State),
    ∃ t, exec (.powerOnReset b) s = .next t ∧ t.pending = s.pending ∧ t.porst = false ∧
      t.role = (if b then .root else .child) ∧
      (∀ x ∈ allPorts, (t.port x).state = .down ∧ (t.port x).attempts = 0 ∧ (t.port x).badRun = 0 ∧
        (t.port x).linkLat = 0 ∧ (t.port x).pathLat = 0 ∧ ∀ k : Fin 8, t.counter x k = 0) ∧
      t.lp.address = (if b then some 0x0000#16 else none) ∧ t.lp.depth = (if b then some 0 else none) ∧
      t.lp.pathLat = 0 ∧ t.ref.state = .unlocked ∧
      (∀ n : Fin 6, t.egress n = ⟨[], [], [], false⟩) ∧ t.cf.noteQ = [] ∧ t.cf.respQ = [] ∧ t.cf.lastServed = 3 ∧
      (∀ p : Fin 4, t.route p = ⟨0#6, false⟩ ∧ t.slots p = Slots.reset ∧ t.ctx p = Context.reset ∧
        t.dpart p = ⟨false, none, []⟩ ∧ t.table p = HoldTable.reset ∧ t.rootRec p = RootRec.reset) ∧
      (∀ i : Fin 16, look t.dg.slots i = 0 ∧ t.out i = ⟨false, 0, false, false, false, false⟩) ∧
      (∀ i : Fin 32, look t.dg.entries i = ⟨.heldLow, 2, 0, 32, false⟩) ∧
      (∀ i : Fin 8, t.trig i = ⟨false, 0, .rise, 1, false, false, 0, 0, 0⟩ ∧ look t.tu.kept i = ⟨false, false, false⟩) ∧
      t.tu.captures = [] ∧
      (∀ i : Fin 4, t.stall i = ⟨false, 0, false, false⟩ ∧ look t.hu.kept i = ⟨false, false, false⟩) ∧
      t.ma.queue = [] ∧ t.ma.latches = 0#16 ∧ t.ma.enables = 0#16 ∧ t.ma.resetCause = .powerOn ∧
      t.ma.hub = ⟨1024, false, 96, 32⟩ ∧ ∀ k : Fin 3, t.hubCounter k = 0

/-- PORST_ASSERTED drives every output line LOW, level and pin, and changes no other stored field but its own mark;
no port transmits; and after it every command but POWER_ON_RESET leaves the state as it is. That the rest of the
state waits unchanged is the model's choice (log entry 12). -/
def Obligations.PorstHoldsTheHub : Prop :=
  ∀ (c : Instr) (s : State),
    (∀ b ∈ [true, false], c ≠ .powerOnReset b) →
    c ≠ .porstAsserted →
    ∃ t, exec .porstAsserted s = .next t ∧ t.porst = true ∧ t = { s with porst := true, dg := t.dg } ∧
      (∀ i : Fin 16, t.out i = { s.out i with level := false, pin := false }) ∧ t.dg = { s.dg with outs := t.dg.outs } ∧
      (∀ x ∈ allPorts, t.wire x = none) ∧ exec c t = .next t

/-- LEVEL_TAKEN_EACH_RP shifts each input line's three kept levels by the level taken. That it also ends the RP,
every pin showing its line's level (log entry 32), now counted while LOCKED and the settle timer up to 8192
while SETTLING, and does nothing else, is the model's choice (log entry 2), within R41. -/
def Obligations.LevelsTakenEachRp : Prop :=
  ∀ (trg : BitVec 8) (stl : BitVec 4) (s : State),
    s.Ready →
    ∃ t, exec (.levelTakenEachRp trg stl) s = .next t ∧
      (∀ i : Fin 16, t.out i = { s.out i with pin := (s.out i).level }) ∧
      t.dg.slots = s.dg.slots ∧ t.dg.entries = s.dg.entries ∧ t.dg.parts = s.dg.parts ∧
      (s.ref.state = .unlocked → t = { s with dg := t.dg }) ∧
      (s.ref.state = .settling →
        t = { s with dg := t.dg, ref := { s.ref with timer := min 8192 (s.ref.timer + 1) } }) ∧
      (s.ref.state = .locked →
        t = { s with
              dg := t.dg
              now := s.now + 1
              tu := { s.tu with kept := t.tu.kept }
              hu := { s.hu with kept := t.hu.kept } } ∧
        (∀ i : Fin 8,
          look t.tu.kept i = ⟨(look s.tu.kept i).l2, (look s.tu.kept i).l1, trg.getLsbD i⟩) ∧
        ∀ i : Fin 4, look t.hu.kept i = ⟨(look s.hu.kept i).l2, (look s.hu.kept i).l1, stl.getLsbD i⟩)

/-- An accepted RESET_HUB answers OK and leaves: the ports' states, latencies and signal, the position, the
reference unit, the role, the RP count and the response queue kept; attempt counts, runs, counters and every
other block at their reset values; reset cause HUB_RESET. What becomes of port timers and link-local work is the
model's choice (log entries 11 and 13). -/
def Obligations.HubResetValues : Prop :=
  ∀ (r : Request) (s : State),
    s.Takes .resetHub r →
    ∃ t, exec (.cmdResetHub r) s = .next t ∧ t.pending = s.pending ∧ t.porst = false ∧ t.role = s.role ∧
      t.now = s.now ∧ t.ref = s.ref ∧
      (∀ x ∈ allPorts, t.port x =
        { s.port x with
          attempts := 0
          badRun := 0
          counters := tab fun _ => 0
          trainRun := 0
          windowFrom := s.now }) ∧
      (∀ n : Fin 6, t.dlink n = { s.dlink n with measure := Measure.fresh, refreshFrom := s.now }) ∧
      t.lp.address = s.lp.address ∧ t.lp.depth = s.lp.depth ∧ t.lp.pathLat = s.lp.pathLat ∧
      t.lp.echoes = s.lp.echoes ∧ t.lp.uArrival = s.lp.uArrival ∧
      t.cf.respQ = (s.answersWith r .ok 0).cf.respQ ∧ t.cf.noteQ = [] ∧ t.cf.lastServed = 3 ∧
      (∀ n : Fin 6, t.egress n = ⟨[], [], [], false⟩) ∧
      (∀ p : Fin 4, t.route p = ⟨0#6, false⟩ ∧ t.slots p = Slots.reset ∧ t.ctx p = Context.reset ∧
        t.dpart p = ⟨false, none, []⟩ ∧ t.table p = HoldTable.reset ∧ t.rootRec p = RootRec.reset) ∧
      (∀ i : Fin 16, look t.dg.slots i = 0 ∧ t.out i = ⟨false, 0, false, false, false, false⟩) ∧
      (∀ i : Fin 32, look t.dg.entries i = ⟨.heldLow, 2, 0, 32, false⟩) ∧
      (∀ i : Fin 8, t.trig i = ⟨false, 0, .rise, 1, false, false, 0, 0, 0⟩ ∧ look t.tu.kept i = ⟨false, false, false⟩) ∧
      t.tu.captures = [] ∧
      (∀ i : Fin 4, t.stall i = ⟨false, 0, false, false⟩ ∧ look t.hu.kept i = ⟨false, false, false⟩) ∧
      t.ma.queue = [] ∧ t.ma.latches = 0#16 ∧ t.ma.enables = 0#16 ∧ t.ma.resetCause = .hubReset ∧
      t.ma.hub = ⟨1024, false, 96, 32⟩ ∧ ∀ k : Fin 3, t.hubCounter k = 0

/-! Links -/

/-- SIGNAL_PRESENT sets the detector, starts settling at the reference source while UNLOCKED, and takes into
TRAINING each port in DOWN whose condition has become true. SIGNAL_LOST at a port that is not UP, and not the
source of a LOCKED reference, takes the port to DOWN unless FAILED, ends its work without counting an attempt,
and takes a settling unit back to UNLOCKED. That a port's own work in progress ends with its state is the
model's choice (log entry 11). SIGNAL_LOST at a child's U that is not UP takes a LOCKED unit out of LOCKED with
the effects of R36 and every context struck with UPLINK, which is read from the rules (log entry 16). -/
def Obligations.SignalsMovePorts : Prop :=
  ∀ (src : SignalSource) (s : State),
    s.Ready →
    s.LinksFollow →
    (exec (.signalPresent src) s =
       .next
         (let t := setSignal src true s
          if s.isSource src ∧ s.ref.state = .unlocked then
            (t.setRef { t.ref with state := .settling, timer := 0 }).trainWilling
          else t.trainWilling)) ∧
    ((∀ x ∈ allPorts, src = .pair x → s.isUp x = false) →
     (s.isSource src = true → s.ref.state ≠ .locked) →
     ∃ t, exec (.signalLost src) s = .next t ∧
       (∀ x ∈ allPorts, t.port x =
         if src = .pair x then { (s.port x).dropped with signal := false } else s.port x) ∧
       (∀ n : Fin 6, t.dlink n = if src = .pair (.d n) then s.droppedWork n else s.dlink n) ∧
       t.ref =
         { (if s.isSource src then { s.ref with state := .unlocked, timer := if s.ref.state = .unlocked then s.ref.timer else 0 }
            else s.ref) with
           refin := if src = .refin then false else s.ref.refin } ∧
       t.lp.echoes = (if src = .pair .u ∧ s.falls .u then [] else s.lp.echoes) ∧
       (t.setLp s.lp).setRef s.ref = s ∧ t.lp.uArrival = s.lp.uArrival ∧ t.lp.address = s.lp.address ∧
       t.lp.depth = s.lp.depth ∧ t.lp.pathLat = s.lp.pathLat) ∧
    (s.isRoot = false → s.locked = true → s.isUp .u = false → s.PaceFollows → s.HoldsAnnounced →
     ∃ t, exec (.signalLost (.pair .u)) s = .next t ∧
       UplinkFell { (s.port .u).dropped with signal := false } [] [] s t)

/-- A LOCKED reference that goes by LOSS_OF_LOCK, or by SIGNAL_LOST of REFIN at the root: the unit leaves LOCKED
(and settles at once while its source signal is there); every context not IDLE is faulted with REFERENCE; every
port that is not FAILED goes to DOWN, those in UP with LINK_LOSS, LINK_DOWN and emptied queues, child entries
and pace sources; every transmitter falls silent; the output lines hold. A child reports REFERENCE in its FAULT
slots, and its log is given in full; at the root each run's record goes to FAULTED, and what waited for the
controller goes with its port. What becomes of a port's own work in progress is the model's choice (log entry
11). The FREEZE of a root's run is made while its links are UP, so that it counts no DEAD_ROUTE on them, and
goes with their queues (log entry 18). -/
def Obligations.LossOfLockStrikesAll : Prop :=
  ∀ (c : Instr) (s : State),
    s.Ready →
    s.LinksFollow →
    s.PaceFollows →
    s.HoldsAnnounced →
    s.locked = true →
    c = .lossOfLock ∨ (c = .signalLost .refin ∧ s.isRoot = true) →
    ∃ t, exec c s = .next t ∧ ReferenceGone .reference s t ∧
      t.ref.refin = (if c = .lossOfLock then s.ref.refin else false) ∧
      (∀ x ∈ allPorts, t.transmits x = false ∧
        t.counter x kLinkLoss = if s.isUp x then satSucc (s.counter x kLinkLoss) else s.counter x kLinkLoss) ∧
      (t.port .u).sansLog = (s.port .u).dropped.silenced.sansLog ∧ t.lp.echoes = (if s.falls .u then [] else s.lp.echoes) ∧
      t.dg = s.dg ∧ t.tu = s.tu ∧ t.now = s.now ∧
      (∀ e ∈ s.goneEvents, t.latched e = true) ∧
      (s.isRoot = false → ReferenceGoneAtChild .reference s t ∧
        Logged (s.goneEvents ++ paceEvents s t) s.goneCounters [] s t ∧ OnlyEventNotes s t) ∧
      (s.isRoot = true →
        (s.isUp .u = true → t.cf.noteQ = [] ∧ t.cf.respQ = []) ∧
        (s.RootContextFollows → ∀ n : Fin 6, s.isUp (.d n) = true →
          t.counter (.d n) kDeadRoute = s.counter (.d n) kDeadRoute) ∧
        ∀ p : Fin 4, (s.ctx p).inRun = true → (s.rootRec p).state = .running ∨ (s.rootRec p).stands = true →
          (t.rootRec p).state = .faulted ∧ (t.rootRec p).fault = some ⟨.reference, 0x0000#16, (s.ctx p).last⟩ ∧
          (t.rootRec p).nextIssue = none)

/-- The settle timer at 8192 takes the unit to LOCKED with REF_LOCKED and willing ports to TRAINING. A training
window of 4096 RP and a round of 1024 RP that end fail the attempt: count, ATTEMPT_FAIL, FAILED with LINK_FAILED
at a D port's fifteenth, else a new window. An ENUM refresh of 4096 RP puts an ENUM to be sent; the RP from
which it counts is the model's choice (log entry 14). That a port's own work in progress ends with its state is
the model's choice (log entry 11). -/
def Obligations.TimersEnd : Prop :=
  ∀ (x : PortId) (n : Dn) (s : State),
    s.Ready →
    (s.LinksFollow →
     s.ref.state = .settling →
     8192 ≤ s.ref.timer →
     ∃ t, exec .settleTimerExpiry s = .next t ∧
       SameButLog [.refLocked] [] [] (s.setRef { s.ref with state := .locked }).trainWilling t) ∧
    (s.locked = true →
     ((s.port x).state = .training ∧ (s.port x).windowFrom + 4096 ≤ s.now →
       ∃ t, exec (.trainingWindowExpiry x) s = .next t ∧
         SameButLog (s.failEvents x) [(x, kAttemptFail)] [] (s.attemptFailed x) t) ∧
     ((s.port (.d n)).state = .measuring ∧ (∃ b ∈ (s.dlink n).measure.sentAt, b + 1024 ≤ s.now) →
       ∃ t, exec (.roundTimeout n) s = .next t ∧
         SameButLog (s.failEvents (.d n)) [(.d n, kAttemptFail)] [] (s.attemptFailed (.d n)) t)) ∧
    (s.locked = true →
     s.isUp (.d n) = true →
     (s.dlink n).refreshFrom + 4096 ≤ s.now →
     exec (.enumRefreshExpiry n) s =
       .next (s.setDLink n { s.dlink n with refreshFrom := s.now, enumWaiting := true, child := s.childAddr n }))

/-- Every cell, good or bad, that arrives at a port in DOWN or FAILED leaves the state as it is. In TRAINING every
cell but a good IDLE sets the run of good IDLE cells to 0 and does nothing else (but for U's arrival time at a
child). -/
def Obligations.CellsOutsideAlignment : Prop :=
  ∀ (c : Instr) (x : PortId) (s : State),
    s.Ready →
    c.arrival = some x →
    ((s.port x).state = .down ∨ (s.port x).state = .failed → exec c s = .next s) ∧
    ((s.port x).state = .training → c.goodCell ≠ some (x, .idle) →
      exec c s = .next ((noteArrival x s).setPort x { s.port x with trainRun := 0 }))

/-- In TRAINING a good IDLE raises the run; the sixty-fourth takes a D port to MEASURING with round 0, U of a child
to WAIT_ENUM, and the controller port to UP with LINK_UP and attempt count 0. -/
def Obligations.TrainingAligns : Prop :=
  ∀ (x : PortId) (n : Dn) (s : State),
    s.Ready →
    ((s.port x).state = .training → (s.port x).trainRun < 63 →
      exec (.idle x) s =
        .next ((noteArrival x s).setPort x { s.port x with trainRun := (s.port x).trainRun + 1 })) ∧
    ((s.port (.d n)).state = .training → 63 ≤ (s.port (.d n)).trainRun →
      exec (.idle (.d n)) s =
        .next
          ((s.setPort (.d n)
            { s.port (.d n) with state := .measuring, badRun := 0, trainRun := (s.port (.d n)).trainRun + 1 }).setDLink n
            { s.dlink n with measure := ⟨0, none, []⟩ })) ∧
    ((s.port .u).state = .training → 63 ≤ (s.port .u).trainRun →
      ∃ t, exec (.idle .u) s = .next t ∧
        SameButLog (if s.isRoot then [.linkUp] else []) [] []
          (s.setLp
            { s.lp with
              uArrival := some s.now
              uport :=
                { s.lp.uport with
                  state := if s.isRoot then .up else .waitEnum
                  badRun := 0
                  attempts := if s.isRoot then 0 else s.lp.uport.attempts
                  trainRun := s.lp.uport.trainRun + 1 } }) t)

/-- A cell whose CHECK fails in an aligned state increments BAD_CHECK and the run; the fourth in a row outside UP
fails the attempt. (In UP the fourth takes the link down: see the statements of link loss.) That a port's own
work in progress ends with its state is the model's choice (log entry 11). -/
def Obligations.BadCellsCount : Prop :=
  ∀ (x : PortId) (bytes : List Byte) (s : State),
    s.Ready →
    checkPasses bytes = false →
    s.aligned x = true →
    (s.port x).badRun < 3 ∨ s.isUp x = false →
    ∃ t, exec (.badCell x bytes) s = .next t ∧
      (let r := (noteArrival x s).setPort x { s.port x with badRun := (s.port x).badRun + 1 }
       if (s.port x).badRun < 3 then SameButLog [] [(x, kBadCheck)] [] r t
       else SameButLog (s.failEvents x) [(x, kBadCheck), (x, kAttemptFail)] [] (r.attemptFailed x) t)

/-- In an aligned state: IDLE only ends a run of bad cells; a good cell of a kind that the port's state delivers to
no block is discarded, with UNKNOWN_KIND at the controller port; an undefined kind counts UNKNOWN_KIND; and a
role conflict outside UP takes the port to FAILED with ROLE_CONFLICT and LINK_FAILED. That a port's own work in
progress ends with its state is the model's choice (log entry 11). -/
def Obligations.GoodCellsJudged : Prop :=
  ∀ (c : Instr) (x : PortId) (k : Kind) (kind : Byte) (s : State),
    s.Ready →
    s.LinksFollow →
    s.aligned x = true →
    (c.goodCell = some (x, .idle) → exec c s = .next (s.heard x)) ∧
    (c.goodCell = some (x, k) → s.conflicts x k = false → s.delivers x k = false →
      ∃ t, exec c s = .next t ∧
        SameButLog [] (if x = .u ∧ s.isRoot = true ∧ k ≠ .idle then [(.u, kUnknownKind)] else []) [] (s.heard x) t) ∧
    (Kind.ofCode kind = none →
      ∃ t, exec (.unknownKind x kind) s = .next t ∧ SameButLog [] [(x, kUnknownKind)] [] (s.heard x) t) ∧
    (c.goodCell = some (x, k) → s.isUp x = false → s.conflicts x k = true →
      ∃ t, exec c s = .next t ∧
        SameButLog [.roleConflict, .linkFailed] [] []
          ((endWork x (noteArrival x s)).setPort x { (s.port x).silenced with state := .failed }) t)

/-- The round value of a round trip is (RTT-6+1)/2 rounded down, 0 when negative, and the link latency is the
greatest round value. A matching ECHO_BACK ends its round; the eighth gives the latency: above 4095, or 16383
with the hub's own, the attempt fails, else it is held and the port goes to UP with LINK_UP and an ENUM to send;
any other ECHO_BACK changes nothing; that this holds of one of the present round before its ECHO has departed is
the model's choice (log entry 33), as is what a failed attempt forgets (log entry 11). U of a child owes the
ECHO_BACK of an ECHO 6 RP after its arrival. From when the ENUM refresh counts is the model's choice (log entry
14). -/
def Obligations.EchoesMeasureLinks : Prop :=
  ∀ (n : Dn) (round : Fin 8) (rtts : List Nat) (s : State),
    s.Ready →
    (rtts ≠ [] →
     (∀ r ∈ rtts, (r < 6 → roundValue r = 0) ∧ (6 ≤ r → 2 * roundValue r = r - 6 ∨ 2 * roundValue r = r - 6 + 1) ∧
       roundValue r ≤ linkLatency rtts) ∧
     ∃ r ∈ rtts, roundValue r = linkLatency rtts) ∧
    ((s.port (.d n)).state = .measuring →
     ∃ t, exec (.echoBack (.d n) round) s = .next t ∧
       (let m := (s.dlink n).measure
        let h := s.heard (.d n)
        let rtts := m.rtts ++ [s.now - m.sentAt.getD 0]
        let l := linkLatency rtts
        let p := { h.port (.d n) with linkLat := l }
        if m.sentAt = none ∨ round ≠ m.round then t = h
        else if m.round ≠ 7 then t = h.setDLink n { s.dlink n with measure := ⟨m.round + 1, none, rtts⟩ }
        else if 4095 < l then SameButLog (s.failEvents (.d n)) [(.d n, kAttemptFail)] [] (h.attemptFailed (.d n)) t
        else if 16383 < s.lp.pathLat + l then
         SameButLog (s.failEvents (.d n)) [(.d n, kAttemptFail)] [] ((h.setPort (.d n) p).attemptFailed (.d n)) t
        else
         SameButLog [.linkUp] [] []
           ((h.setPort (.d n) { p with state := .up, attempts := 0, pathLat := s.lp.pathLat + l }).setDLink n
             { measure := Measure.fresh, refreshFrom := s.now, enumWaiting := true, child := s.childAddr n }) t)) ∧
    (s.isRoot = false →
     (s.port .u).state = .waitEnum ∨ (s.port .u).state = .up →
     exec (.echo .u round) s =
       .next ((s.heard .u).setLp { (s.heard .u).lp with echoes := s.lp.echoes ++ [⟨s.now + 6, round⟩] }))

/-- A valid ENUM in WAIT_ENUM gives address, depth and path latency and takes U to UP, with LINK_UP and, at depth 3,
DEPTH_LIMIT. An invalid one, or one in UP that changes nothing, has no effect. A changed one in UP with all
links in range gives the new values, new path latencies and a new ENUM on each link in UP; a link whose new path
latency is above 16383 leaves UP as a failed attempt, with the loss of the link; at depth 3 every D port loses
its enable and falls silent, with the loss of the links that were UP. What a D port forgets is the model's
choice, and that no ENUM is placed at depth 3 is read from the rules (log entries 11 and 23). -/
def Obligations.EnumsSetPosition : Prop :=
  ∀ (addr : Addr) (depth lat : Nat) (s : State),
    s.Ready →
    s.isRoot = false →
    s.LinksFollow →
    ((s.port .u).state = .waitEnum → enumValid addr depth lat = true →
      ∃ t, exec (.enum .u addr depth lat) s = .next t ∧
        SameButLog (.linkUp :: if depth = 3 then [.depthLimit] else []) [] []
          ((s.heard .u).setLp
            { (s.heard .u).lp with
              address := some addr
              depth := some depth
              pathLat := lat
              uport := { (s.heard .u).lp.uport with state := .up, attempts := 0, pathLat := lat } }).trainWilling t) ∧
    ((s.port .u).state = .waitEnum ∨ (s.port .u).state = .up → enumValid addr depth lat = false →
      exec (.enum .u addr depth lat) s = .next (s.heard .u)) ∧
    ((s.port .u).state = .up → s.lp.address = some addr → s.lp.depth = some depth → s.lp.pathLat = lat →
      exec (.enum .u addr depth lat) s = .next (s.heard .u)) ∧
    ((s.port .u).state = .up →
     enumValid addr depth lat = true →
     (s.lp.address, s.lp.depth, s.lp.pathLat) ≠ (some addr, some depth, lat) →
     (∀ n : Fin 6, s.isUp (.d n) = true → lat + (s.port (.d n)).linkLat ≤ 16383) →
     ∃ t, exec (.enum .u addr depth lat) s = .next t ∧
       t.lp.address = some addr ∧ t.lp.depth = some depth ∧ t.lp.pathLat = lat ∧ (t.port .u).pathLat = lat ∧
       (t.port .u).state = .up ∧ t.ref = s.ref ∧ t.dg = s.dg ∧ t.tu = s.tu ∧ t.rc = s.rc ∧
       (depth ≤ 2 →
         (∀ n : Fin 6, s.isUp (.d n) = true →
           (t.port (.d n)).sansLog = { (s.port (.d n)).sansLog with pathLat := lat + (s.port (.d n)).linkLat } ∧
           t.dlink n = { s.dlink n with enumWaiting := true, child := addr.child depth n }) ∧
         (∀ n : Fin 6, (s.port (.d n)).state = .down → (s.port (.d n)).signal = true →
           (t.port (.d n)).state = .training ∧ (t.port (.d n)).trainRun = 0 ∧ (t.port (.d n)).windowFrom = s.now) ∧
         (∀ n : Fin 6, s.isUp (.d n) = false → (s.port (.d n)).state ≠ .down ∨ (s.port (.d n)).signal = false →
           (t.port (.d n)).sansLog = (s.port (.d n)).sansLog ∧ t.dlink n = s.dlink n) ∧
         t.pse = s.pse ∧ t.cf = s.cf ∧ t.hu = s.hu ∧ Logged [] [] [] s t) ∧
       (depth = 3 →
         (∀ n : Fin 6, (t.port (.d n)).sansLog = (s.port (.d n)).dropped.silenced.sansLog ∧ t.dlink n = s.droppedWork n ∧
           t.egress n = if s.isUp (.d n) then Egress.reset else s.egress n) ∧
         (s.lp.depth ≠ some 3 → t.latched .depthLimit = true) ∧
         ∀ p : Fin 4, (s.ctx p).inRun = true → (∃ n : Fin 6, s.inMask p n = true ∧ s.isUp (.d n) = true) →
           (t.ctx p).state = (s.ctx p).state ∧ (t.slots p).fault.isSome = true)) ∧
    ((s.port .u).state = .up →
     enumValid addr depth lat = true →
     depth ≤ 2 →
     (s.lp.address, s.lp.depth, s.lp.pathLat) ≠ (some addr, some depth, lat) →
     ∃ t, exec (.enum .u addr depth lat) s = .next t ∧ ∀ n : Fin 6, s.isUp (.d n) = true →
       (lat + (s.port (.d n)).linkLat ≤ 16383 →
         (t.port (.d n)).sansLog = { (s.port (.d n)).sansLog with pathLat := lat + (s.port (.d n)).linkLat } ∧
         t.dlink n = { s.dlink n with enumWaiting := true, child := addr.child depth n } ∧ t.egress n = s.egress n) ∧
       (16383 < lat + (s.port (.d n)).linkLat →
         (t.port (.d n)).sansLog = ((s.attemptFailed (.d n)).port (.d n)).sansLog ∧
         t.dlink n = { s.dlink n with measure := Measure.fresh, enumWaiting := false } ∧ t.egress n = Egress.reset ∧
         t.counter (.d n) kLinkLoss = satSucc (s.counter (.d n) kLinkLoss) ∧
         t.counter (.d n) kAttemptFail = satSucc (s.counter (.d n) kAttemptFail) ∧ t.latched .linkDown = true ∧
         (14 ≤ (s.port (.d n)).attempts → t.latched .linkFailed = true) ∧
         ∀ p : Fin 4,
           look (t.table p).entries (childEntry n) = none ∧ look (t.ctx p).childSlow n = false ∧
           (s.inMask p n = true → (s.ctx p).inRun = true →
             (t.ctx p).state = (s.ctx p).state ∧ (t.slots p).fault.isSome = true ∧
             ((s.slots p).fault = none → (t.slots p).fault.map FaultReport.cause = some .childLink))))

/-- By signal loss, by a fourth bad cell or by a role conflict a D port of a child leaves UP, to DOWN, TRAINING or
FAILED: LINK_DOWN and LINK_LOSS; its egress queues are emptied; its hold entries and pace sources go in every
partition, with the HOLD and PACE slots following; each routed context in a run has CHILD_LINK with its origin
in an empty FAULT slot; nothing else changes. That a port's own work ends with its state, and which address the
report carries, are the model's choices (log entries 11 and 14), and the order of the effects is read from the
rules (log entry 22). -/
def Obligations.ChildLinkLoss : Prop :=
  ∀ (n : Dn) (bytes : List Byte) (c : Instr) (k : Kind) (s : State),
    s.Ready →
    s.isRoot = false →
    s.isUp (.d n) = true →
    s.PaceFollows →
    s.HoldsAnnounced →
    (∃ t, exec (.signalLost (.pair (.d n))) s = .next t ∧
      LinkFell n { s.port (.d n) with state := .down, signal := false } [] [] s t) ∧
    (checkPasses bytes = false → 3 ≤ (s.port (.d n)).badRun →
      ∃ t, exec (.badCell (.d n) bytes) s = .next t ∧
        LinkFell n
          { s.port (.d n) with
            state := .training
            badRun := (s.port (.d n)).badRun + 1
            trainRun := 0
            windowFrom := s.now } [] [(.d n, kBadCheck)] s t) ∧
    (c.goodCell = some (.d n, k) → k.direction = .down →
      ∃ t, exec c s = .next t ∧
        LinkFell n { (s.port (.d n)).silenced with state := .failed } [.roleConflict, .linkFailed] [] s t)

/-- At the root, a link that leaves UP by signal loss, by a fourth bad cell or by a role conflict takes each routed
partition in a run to FAULTED with cause CHILD_LINK and origin 0x0000, the freeze point set at or lowered to the
next step. The link's queues are emptied, its hold entry and pace source go, LINK_LOSS and LINK_DOWN are
recorded; no other port, no line and no domain changes. -/
def Obligations.RootLinkLossFaultsRuns : Prop :=
  ∀ (c : Instr) (n : Dn) (bytes : List Byte) (k : Kind) (st : PortState) (p : Part) (s : State),
    s.Ready →
    s.isRoot = true →
    s.isUp (.d n) = true →
    (c = .signalLost (.pair (.d n)) ∧ st = .down) ∨
      (c = .badCell (.d n) bytes ∧ checkPasses bytes = false ∧ 3 ≤ (s.port (.d n)).badRun ∧ st = .training) ∨
      (c.goodCell = some (.d n, k) ∧ k.direction = .down ∧ st = .failed) →
    ∃ t, exec c s = .next t ∧
      (t.port (.d n)).state = st ∧ t.egress n = Egress.reset ∧
      look (t.table p).entries (childEntry n) = none ∧ look (t.ctx p).childSlow n = false ∧
      t.counter (.d n) kLinkLoss = satSucc (s.counter (.d n) kLinkLoss) ∧ t.latched .linkDown = true ∧
      (∀ x ∈ allPorts, x ≠ .d n → (t.port x).sansLog = (s.port x).sansLog) ∧
      (s.inMask p n = true → (s.ctx p).inRun = true → (s.rootRec p).state = .running ∨ (s.rootRec p).stands = true →
        (t.rootRec p).state = .faulted ∧
        (t.rootRec p).fault = some ⟨.childLink, 0x0000#16, (s.ctx p).last⟩ ∧
        (t.rootRec p).causes = { (s.rootRec p).causes with fault := true } ∧
        (t.rootRec p).freeze =
          (if (s.rootRec p).lowers (s.rootRec p).next then some (s.rootRec p).next else (s.rootRec p).freeze) ∧
        (t.rootRec p).nextIssue = none ∧ (t.rootRec p).lastIssued = (s.rootRec p).lastIssued) ∧
      t.dg = s.dg ∧ t.tu = s.tu ∧ t.ref = s.ref ∧ t.now = s.now

/-- By signal loss, by a fourth bad cell or by a role conflict U of a child leaves UP: the unit leaves LOCKED with
REF_LOST and settles at once while the signal is there; every context not IDLE is faulted once with UPLINK;
every D port loses its enable and every port falls silent; position and path latency stay. That the bad-cell run
leaves U in DOWN, its condition being false, is read from R20 (log entry 15). That a port's own work in progress
ends with its state is the model's choice (log entry 11). -/
def Obligations.UplinkLoss : Prop :=
  ∀ (bytes : List Byte) (c : Instr) (k : Kind) (s : State),
    s.Ready →
    s.isRoot = false →
    s.isUp .u = true →
    s.LinksFollow →
    s.PaceFollows →
    s.HoldsAnnounced →
    (∃ t, exec (.signalLost (.pair .u)) s = .next t ∧
      UplinkFell { s.port .u with state := .down, signal := false } [] [] s t) ∧
    (checkPasses bytes = false → 3 ≤ (s.port .u).badRun →
      ∃ t, exec (.badCell .u bytes) s = .next t ∧
        UplinkFell
          { s.port .u with state := .down, badRun := (s.port .u).badRun + 1, trainRun := 0, windowFrom := s.now } []
          [(.u, kBadCheck)] (noteArrival .u s) t) ∧
    (c.goodCell = some (.u, k) → k.direction = .up →
      ∃ t, exec c s = .next t ∧
        UplinkFell { s.port .u with state := .failed } [.roleConflict, .linkFailed] [] (noteArrival .u s) t)

/-- By signal loss, by a fourth bad cell or by a role conflict the controller port leaves UP, with LINK_DOWN and
LINK_LOSS. What waits in the note and response queues goes; nothing else changes. That a port's own work in
progress ends with its state is the model's choice (log entry 11). -/
def Obligations.ControllerLoss : Prop :=
  ∀ (bytes : List Byte) (c : Instr) (k : Kind) (s : State),
    s.Ready →
    s.isRoot = true →
    s.isUp .u = true →
    (∃ t, exec (.signalLost (.pair .u)) s = .next t ∧
      SameButLog [.linkDown] [(.u, kLinkLoss)] []
        (s.controllerLost { s.port .u with state := .down, signal := false }) t) ∧
    (checkPasses bytes = false → 3 ≤ (s.port .u).badRun →
      ∃ t, exec (.badCell .u bytes) s = .next t ∧
        SameButLog [.linkDown] [(.u, kLinkLoss), (.u, kBadCheck)] []
          ((noteArrival .u s).controllerLost
            { s.port .u with state := .training, badRun := (s.port .u).badRun + 1, trainRun := 0, windowFrom := s.now })
          t) ∧
    (c.goodCell = some (.u, k) → s.conflicts .u k = true →
      ∃ t, exec c s = .next t ∧
        SameButLog [.linkDown, .roleConflict, .linkFailed] [(.u, kLinkLoss)] []
          ((noteArrival .u s).controllerLost { (s.port .u).silenced with state := .failed }) t)

/-! Cells of a run at a child -/

/-- At a child, a STEP that its context accepts makes the next step expected. Locally it joins the hold queue with
expiry now + A - P - AGE, or now and ALIGN_SHORT where that is negative or the AGE is 4095; elsewhere it is
received at once, with FROZEN at the freeze point. Its copies join the step queues of routed links that are UP,
with drops and dead routes counted; pace states follow; nothing else changes. -/
def Obligations.StepsTaken : Prop :=
  ∀ (p : Part) (n age : Nat) (s : State),
    s.InService →
    s.PaceFollows →
    (s.ctx p).state = .armed ∨ (s.ctx p).state = .running ∨ (s.ctx p).state = .freezing →
    s.faultOf p (.step .u p n age) = none →
    ∃ t, exec (.step .u p n age) s = .next t ∧
      (let c := s.ctx p
       let held := (s.route p).isLocal
       let short := held && (decide (s.ma.hub.budget < s.lp.pathLat + age) || age == 4095)
       t.ctx p =
          (if held then
            { c with
              expected := n + 1
              queue := c.queue ++ [⟨n, if short then s.now else s.now + (s.ma.hub.budget - s.lp.pathLat - age)⟩]
              queueSlow := c.queueSlow || decide (s.ma.hub.high ≤ c.queue.length + 1)
              pace := t.paceOf p }
          else
            { c with
              expected := n + 1
              last := some n
              state := if c.freeze = some (n + 1) then .frozen else if c.state = .armed then .running else c.state
              frozenMark := if c.freeze = some (n + 1) then s.now else c.frozenMark
              pace := t.paceOf p }) ∧
        CellLogged (.step .u p n age) p ((if short then [.alignShort] else []) ++ paceEvents s t) (if short then [0] else [])
          s t) ∧
      t.slots p = { s.slots p with pace := s.paceSlotAfter p (t.paceOf p) } ∧
      Forwarded (.step .u p n age) p s t ∧ SameOutsideRun (s.heard .u) t

/-- At a child in a run: a STEP out of order, above a freeze point, in FROZEN or on a full hold queue, a FREEZE
below the expected step and a RESUME that does not match fault the context with the stated cause; PART_FAULT is
raised; the FAULT slot takes it unless a cause waits there; the cell is forwarded all the same, and nothing else
changes. That a step both short and one too many counts ALIGN_SHORT is the model's choice (log entry 19). -/
def Obligations.UnfitCellsFault : Prop :=
  ∀ (c : Instr) (p : Part) (cause : FaultCause) (s : State),
    s.InService →
    s.PaceFollows →
    c.runCell = some p →
    (s.ctx p).inRun = true →
    s.faultOf p c = some cause →
    ∃ t, exec c s = .next t ∧
      t.ctx p =
        { (s.ctx p).struck cause with
          expected := if cause = .overrun then (s.ctx p).expected + 1 else (s.ctx p).expected
          pace := t.paceOf p } ∧
      { t.slots p with pace := none } =
        { s.slots p with
          fault := some ((s.slots p).fault.getD ⟨cause, s.ownAddr, (s.ctx p).last⟩)
          pace := none } ∧
      (t.paceOf p = true → (s.ctx p).pace = false → (t.slots p).pace = some true) ∧
      (t.paceOf p = false → (s.ctx p).pace = true → (t.slots p).pace = some false) ∧
      Forwarded c p s t ∧ SameOutsideRun (s.heard .u) t ∧
      let short :=
        decide (cause = .overrun) &&
          match c with
          | .step _ _ _ age => s.isShort age
          | _ => false
      CellLogged c p (.partFault :: (if short then [.alignShort] else []) ++ t.paceOpen) (if short then [0] else []) s t

/-- At a child, a STEP, FREEZE, RESUME or SWAP of a partition in IDLE or FAULTED is forwarded and changes nothing
else but the pace states that its copies bring. -/
def Obligations.StoppedContextsOnlyForward : Prop :=
  ∀ (c : Instr) (p : Part) (s : State),
    s.InService →
    s.PaceFollows →
    c.runCell = some p →
    c.begins = false →
    (s.ctx p).state = .idle ∨ (s.ctx p).state = .faulted →
    ∃ t, exec c s = .next t ∧ OnlyPaceMoves p s t ∧ Forwarded c p s t ∧ SameOutsideRun (s.heard .u) t ∧
      CellLogged c p (paceEvents s t) [] s t

/-- At a child in a run: FREEZE sets or lowers the freeze point, replaces the causes, and leaves FREEZING or FROZEN,
with LEAD_SHORT where its flag says so; a matching RESUME clears freeze point and causes; SWAP joins the record
of a local partition, or is counted late where it is below the expected step, not above the last or the record
is full. Each is copied to the routed links. -/
def Obligations.FreezesResumesAndSwapsTaken : Prop :=
  ∀ (p : Part) (f w : Nat) (causes : Causes) (short : Bool) (s : State),
    s.InService →
    (s.ctx p).inRun = true →
    ((s.ctx p).expected ≤ f →
      ∃ t, exec (.freeze .u p f causes short) s = .next t ∧
        t.pse = upd s.pse p ((s.ctx p).stoppedAt f causes s.now) ∧
        t.cf.slots = s.cf.slots ∧ (∀ n : Fin 6, t.egress n = s.copied (.freeze .u p f causes short) p n) ∧
        SameOutsideRun (s.heard .u) t ∧
        CellLogged (.freeze .u p f causes short) p (if short then [.leadShort] else []) [] s t) ∧
    ((s.ctx p).state = .freezing ∨ (s.ctx p).state = .frozen → (s.ctx p).freeze = some f →
      ∃ t, exec (.resume .u p f) s = .next t ∧
        t.pse = upd s.pse p (s.ctx p).goesOn ∧
        t.cf.slots = s.cf.slots ∧ (∀ n : Fin 6, t.egress n = s.copied (.resume .u p f) p n) ∧
        SameOutsideRun (s.heard .u) t ∧ CellLogged (.resume .u p f) p [] [] s t) ∧
    ∃ t, exec (.swap .u p w) s = .next t ∧
      (let l := (s.dpart p).swaps
       let late := decide (w < (s.ctx p).expected) || decide (4 ≤ l.length) ||
        !(l.getLast?.all fun v => decide (v < w))
       let held := (s.route p).isLocal
       t.dg =
          (if held && !late then s.setDPart p { s.dpart p with swaps := l ++ [w] } else s).dg ∧
        CellLogged (.swap .u p w) p [] (if held && late then [1] else []) s t) ∧
      t.pse = s.pse ∧ t.cf.slots = s.cf.slots ∧ (∀ n : Fin 6, t.egress n = s.copied (.swap .u p w) p n) ∧
      t.tu = s.tu ∧ t.hu = s.hu ∧ SameOutsideBoard (s.heard .u) t

/-- START brings the context to ARMED at its epoch with everything of the earlier run cleared: slots, hold table,
counts and previous samples of its trigger lines, swap record, bank 0, its lines at rest; RESTARTED where the
context was not IDLE. With epoch 2^40 - 1 it does all this and faults the context with PROTOCOL and no last
step. ABORT brings it to IDLE and keeps epoch, expected and last step, and the bank. Both remove the partition's
waiting steps from the routed links, and are copied there. The PACE slot at a START is read from R84 (log entry
20). -/
def Obligations.StartsAndAbortsTaken : Prop :=
  ∀ (p : Part) (e : Nat) (s : State),
    s.InService →
    s.PaceFollows →
    (∃ t, exec (.start .u p e) s = .next t ∧
       t.ctx p =
         { Context.reset with
           state := if e = freezeMax then .faulted else .armed
           epoch := e
           expected := e
           fault := if e = freezeMax then some .protocol else none
           pace := t.paceOf p
           prev := tab fun i => if (s.trig i).part = p then none else s.prev p i
           frozenMark := (s.ctx p).frozenMark } ∧
       t.slots p =
         { Slots.reset with
           fault := if e = freezeMax then some ⟨.protocol, s.ownAddr, none⟩ else none
           pace := if (s.ctx p).pace then some (t.paceOf p) else none } ∧
       t.hu = (s.setTable p HoldTable.reset).hu ∧
       t.tu = { s.tu with lines := tab fun i =>
         if (s.trig i).part = p then { s.trig i with count := 0, fired := 0 } else s.trig i } ∧
       t.dg.slots = s.dg.slots ∧ t.dg.entries = s.dg.entries ∧ t.dg.parts = upd s.dg.parts p ⟨false, none, []⟩ ∧
       (∀ i : Fin 16, t.out i =
         if s.onDomainOf (s.out i) p then { s.out i with level := (s.out i).rest, pin := (s.out i).rest } else s.out i) ∧
       Forwarded (.start .u p e) p s t ∧ SameOutsideBoard (s.heard .u) t ∧
       CellLogged (.start .u p e) p
         ((if (s.ctx p).state = .idle then [] else [.restarted]) ++ if e = freezeMax then [.partFault] else []) [] s t) ∧
    ∃ t, exec (.abort .u p) s = .next t ∧
      t.ctx p =
        { Context.reset with
          epoch := (s.ctx p).epoch
          expected := (s.ctx p).expected
          last := (s.ctx p).last
          pace := t.paceOf p
          prev := (s.ctx p).prev
          frozenMark := (s.ctx p).frozenMark } ∧
      t.slots p = Slots.reset ∧ t.hu = (s.setTable p HoldTable.reset).hu ∧ t.tu = s.tu ∧
      t.dg.slots = s.dg.slots ∧ t.dg.entries = s.dg.entries ∧
      t.dg.parts = upd s.dg.parts p ⟨(s.dpart p).bank, none, []⟩ ∧
      (∀ i : Fin 16, t.out i =
        if s.onDomainOf (s.out i) p then { s.out i with level := (s.out i).rest, pin := (s.out i).rest } else s.out i) ∧
      Forwarded (.abort .u p) p s t ∧ SameOutsideBoard (s.heard .u) t ∧ CellLogged (.abort .u p) p [] [] s t

/-! Requests and reports -/

/-- A request at U is given to the agent when it names this hub, with AGENT_DROP at a full queue; goes to one link
when it names a hub below, with DEAD_ROUTE where that is not UP and MGMT_DROP where its queue is full; is
counted MISROUTED when it names a hub elsewhere; and a broadcast goes to the agent and to every link in UP. -/
def Obligations.RequestsAreRouted : Prop :=
  ∀ (r : Request) (s : State),
    s.Ready →
    (s.port .u).state = .up →
    ∃ t, exec (.mreq .u r) s = .next t ∧
      (let h := s.heard .u
       let joins := decide (s.ma.queue.length < 4)
       let room (n : Dn) := decide ((s.egress n).mgmt.length < 16)
       let here := if joins then h.setMa { s.ma with queue := s.ma.queue ++ [r] } else h
       let lost : List (PortId × Fin 8) := if joins then [] else [(.u, kAgentDrop)]
       let given (n : Dn) : Egress := { s.egress n with mgmt := (s.egress n).mgmt ++ [r] }
       (s.routeOf r.dest = .here → SameButLog [] lost [] here t) ∧
       (∀ n : Fin 6, s.routeOf r.dest = .below n →
         (s.isUp (.d n) = false → SameButLog [] [(.d n, kDeadRoute)] [] h t) ∧
         (s.isUp (.d n) = true → room n = true → t = h.setEgress n (given n)) ∧
         (s.isUp (.d n) = true → room n = false → SameButLog [] [(.d n, kMgmtDrop)] [] h t)) ∧
       (s.routeOf r.dest = .elsewhere → SameButLog [] [(.u, kMisrouted)] [] h t) ∧
       (s.routeOf r.dest = .broadcast →
         SameButLog [] (lost ++ (allLinks.filter fun n => s.isUp (.d n) && !room n).map fun n => (PortId.d n, kMgmtDrop))
          []
          (here.setCf
            { s.cf with egress := tab fun n => if s.isUp (.d n) && room n then given n else s.egress n }) t))

/-- A summary cell on a link outside its partition's mask counts STRAY; one of a partition that is IDLE here is
discarded. At a child HALTREQ takes its class's slot when that is empty or holds a higher stamp, and FAULT takes
the FAULT slot when that is empty. -/
def Obligations.SummariesAccepted : Prop :=
  ∀ (n : Dn) (p : Part) (c : Instr) (cls : Fin 4) (h : HaltReq) (f : FaultReport) (s : State),
    s.Ready →
    s.isUp (.d n) = true →
    (c.reports = some (n, p) → s.inMask p n = false →
      ∃ t, exec c s = .next t ∧ SameButLog [] [(.d n, kStray)] [] (s.heard (.d n)) t) ∧
    (c.reports = some (n, p) → s.inMask p n = true → (s.ctx p).state = .idle → exec c s = .next (s.heard (.d n))) ∧
    (s.isRoot = false →
     s.inMask p n = true →
     (s.ctx p).state ≠ .idle →
     exec (.haltreq (.d n) p cls h) s =
       .next
         (if ∀ g ∈ look (s.slots p).haltreq cls, h.stamp < g.stamp then
           (s.heard (.d n)).setSlots p { s.slots p with haltreq := upd (s.slots p).haltreq cls (some h) }
         else s.heard (.d n)) ∧
     exec (.fault (.d n) p f) s =
       .next ((s.heard (.d n)).setSlots p { s.slots p with fault := some ((s.slots p).fault.getD f) }))

/-- At a child, HOLD ON at or above the epoch makes the link's entry active with the lower of the stamps, one below
the epoch changes nothing, OFF makes it inactive; announced stamp and HOLD slot follow the hold set; nothing
else changes. -/
def Obligations.HoldsMerge : Prop :=
  ∀ (n : Dn) (p : Part) (stamp : Option Nat) (s : State),
    s.Ready →
    s.isRoot = false →
    s.isUp (.d n) = true →
    s.inMask p n = true →
    (s.ctx p).state ≠ .idle →
    s.HoldsAnnounced →
    ∃ t, exec (.hold (.d n) p stamp) s = .next t ∧
      (t.table p).entries =
        upd (s.table p).entries (childEntry n)
          (match stamp with
           | none => none
           | some m =>
             if m < (s.ctx p).epoch then look (s.table p).entries (childEntry n)
             else some (min m ((look (s.table p).entries (childEntry n)).getD m))) ∧
      HoldFollows p s t ∧ t = ((s.heard (.d n)).setTable p (t.table p)).setSlots p (t.slots p)

/-- PACE sets the link's source. The pace state is SLOW exactly while the hold queue, a child or a backed-up routed
link is. A change is written to the PACE slot at a child, and to the record's slow flag at the root, with
PACE_SLOW on the way to SLOW; nothing else changes. -/
def Obligations.PacesMerge : Prop :=
  ∀ (n : Dn) (p : Part) (slow : Bool) (s : State),
    s.Ready →
    s.isUp (.d n) = true →
    s.inMask p n = true →
    (s.ctx p).state ≠ .idle →
    ∃ t, exec (.pace (.d n) p slow) s = .next t ∧
      t.ctx p = { s.ctx p with childSlow := upd (s.ctx p).childSlow n slow, pace := t.paceOf p } ∧
      (t.paceOf p = ((s.ctx p).queueSlow ||
        allLinks.any fun k => (if k = n then slow else look (s.ctx p).childSlow k) ||
          (s.inMask p k && (s.egress k).backedUp))) ∧
      (let moved := t.paceOf p != (s.ctx p).pace
       SameButLog (if moved && t.paceOf p then [.paceSlow] else []) [] []
        (let e := (s.heard (.d n)).setCtx p (t.ctx p)
         if !moved then e
         else if s.isRoot then e.setRootRec p { s.rootRec p with slow := t.paceOf p }
         else e.setSlots p { s.slots p with pace := some (t.paceOf p) }) t)

/-- A NOTE or MRSP on a D port in UP joins the tail of the note queue or the response queue unchanged, whatever the
routes are. At 16 notes or 8 responses it is dropped and counted, with NOTE_DROP; at a root whose controller
port is not UP it is discarded. -/
def Obligations.NotesAndResponsesPass : Prop :=
  ∀ (k : Dn) (n : Note) (r : Response) (s : State),
    s.Ready →
    s.isUp (.d k) = true →
    (∃ t, exec (.note (.d k) n) s = .next t ∧
      (let h := s.heard (.d k)
       if s.isRoot = true ∧ s.isUp .u = false then t = h
       else if s.cf.noteQ.length < 16 then t = h.setCf { s.cf with noteQ := s.cf.noteQ ++ [n] }
       else t.sansLog = h.sansLog ∧ t.cf.noteQ = s.cf.noteQ ∧ t.latched .noteDrop = true ∧
         (s.latched .noteDrop = true → t.counter .u kNoteDrop = satSucc (s.counter .u kNoteDrop)) ∧
         Logged [] [] [] s t)) ∧
    ∃ t, exec (.mrsp (.d k) r) s = .next t ∧
      (let h := s.heard (.d k)
       if s.isRoot = true ∧ s.isUp .u = false then t = h
       else if s.cf.respQ.length < 8 then t = h.setCf { s.cf with respQ := s.cf.respQ ++ [r] }
       else SameButLog [] [(.u, kResponseDrop)] [] h t)

/-! Cell slots -/

/-- A cell slot of a D port in UP sends the first that waits of ENUM, urgent head, step head, management head, and
else IDLE, and removes it. A STEP leaves with AGE raised by its time here, at most 4095; the backed-up report
ends at 4 steps, and pace states follow. The next slot is 2 RP on; nothing else changes. When a slot may begin,
and that the ENUM refresh counts from the ENUM's departure, are the model's choices (log entries 24 and 14).
That an ENUM has the fields of its departure is the model's choice too (log entry 29). -/
def Obligations.DownSlotsServe : Prop :=
  ∀ (n : Dn) (s : State),
    s.Ready →
    s.PaceFollows →
    s.transmits (.d n) = true →
    (s.port (.d n)).state = .up →
    (s.port (.d n)).nextSlot ≤ s.now →
    ∃ t, exec (.dPortCellSlot n) s = .next t ∧
      (let g := s.egress n
       let sends (c : Cell) := s.setPort (.d n) { s.port (.d n) with sent := some c, nextSlot := s.now + 2 }
       if (s.dlink n).enumWaiting then
        t = (sends (.enum (s.childAddr n) (s.lp.depth.getD 0 + 1) (s.port (.d n)).pathLat)).setDLink n
          { s.dlink n with enumWaiting := false, refreshFrom := s.now }
       else
        (∀ u ∈ g.urgent.head?, t = (sends (.run u.part u.run)).setEgress n { g with urgent := g.urgent.tail }) ∧
        (g.urgent = [] →
          (∀ c ∈ g.steps.head?,
            t.port (.d n) = (sends (.step c.part c.step (min 4095 (c.age + (s.now - c.arrival))))).port (.d n) ∧
            t.egress n = { g with steps := g.steps.tail, backedUp := g.backedUp && decide (4 < g.steps.tail.length) } ∧
            (∀ k : Fin 6, k ≠ n → t.egress k = s.egress k) ∧
            (∀ q : Fin 4, t.ctx q = { s.ctx q with pace := t.paceOf q } ∧
              (s.isRoot = false → t.slots q = { s.slots q with pace := s.paceSlotAfter q (t.paceOf q) }) ∧
              (s.isRoot = true → t.slots q = s.slots q ∧ t.rootRec q =
                { s.rootRec q with
                  slow :=
                    if t.paceOf q = (s.ctx q).pace ∨ (s.ctx q).state = .idle then (s.rootRec q).slow
                    else t.paceOf q })) ∧
            (s.isRoot = false → t.rc = s.rc) ∧
            ((t.setPse s.pse).setCf s.cf).setRc s.rc =
              sends (.step c.part c.step (min 4095 (c.age + (s.now - c.arrival)))) ∧
            SameStores s t ∧ t.cf.noteQ = s.cf.noteQ) ∧
          (g.steps = [] →
            (∀ r ∈ g.mgmt.head?, t = (sends (.mreq r)).setEgress n { g with mgmt := g.mgmt.tail }) ∧
            (g.mgmt = [] → t = sends .idle))))

/-- A D port outside UP sends the ECHO of its round when none is out, noting the time, and else IDLE. U sends IDLE
outside UP and WAIT_ENUM; a child's ECHO_BACK that is due goes first; in WAIT_ENUM nothing else goes; in UP with
no summary pending, and at the root always, the note head, then the response head, then IDLE. Slots begin only
when due. When a slot may begin is the model's choice (log entry 24). -/
def Obligations.OtherSlotsServe : Prop :=
  ∀ (n : Dn) (s : State),
    s.Ready →
    (s.transmits (.d n) = true → (s.port (.d n)).nextSlot ≤ s.now → (s.port (.d n)).state ≠ .up →
      exec (.dPortCellSlot n) s =
        .next
          (let m := (s.dlink n).measure
           let asks := decide ((s.port (.d n)).state = .measuring) && m.sentAt.isNone
           (s.setPort (.d n)
            { s.port (.d n) with
              sent := some (if asks then .echo m.round else .idle)
              nextSlot := s.now + 2 }).setDLink n
            { s.dlink n with measure := if asks then { m with sentAt := some s.now } else m })) ∧
    (s.transmits .u = true → s.slotDueU = true →
      ∃ t, exec .uPortCellSlot s = .next t ∧
        (let sends (c : Cell) := s.setPort .u { s.port .u with sent := some c, nextSlot := s.now + 2 }
         let isOpen := decide ((s.port .u).state = .up) || decide ((s.port .u).state = .waitEnum)
         let owes := s.lp.echoes.head?.any fun e => decide (e.due ≤ s.now)
         (isOpen = false → t = sends .idle) ∧
         (s.isRoot = false → isOpen = true → owes = true → ∀ e ∈ s.lp.echoes.head?,
          t = (sends (.echoBack e.round)).setLp
            { (sends (.echoBack e.round)).lp with echoes := s.lp.echoes.tail }) ∧
         (s.isRoot = false → (s.port .u).state = .waitEnum → owes = false → t = sends .idle) ∧
         ((s.port .u).state = .up →
          (s.isRoot = true ∨ (owes = false ∧ ∀ p : Fin 4, (s.slots p).pending = false)) →
          (∀ m ∈ s.cf.noteQ.head?, t = (sends (.note m)).setCf { s.cf with noteQ := s.cf.noteQ.tail }) ∧
          (s.cf.noteQ = [] →
            (∀ r ∈ s.cf.respQ.head?, t = (sends (.mrsp r)).setCf { s.cf with respQ := s.cf.respQ.tail }) ∧
            (s.cf.respQ = [] → t = sends .idle)))))

/-- With no ECHO_BACK due, the slot of a child's U in UP serves the first partition after the last served that has a
pending slot: FAULT, HALTREQ by class, HOLD, PACE. The slot is emptied, a HOLD sets the reported state, the
partition becomes the last served; nothing else changes. When a slot may begin is the model's choice (log entry
24). -/
def Obligations.SummariesAreServed : Prop :=
  ∀ (k : Fin 4) (p : Part) (s : State),
    s.InService →
    s.transmits .u = true →
    s.slotDueU = true →
    (∀ e ∈ s.lp.echoes.head?, s.now < e.due) →
    p = Fin.ofNat 4 (s.cf.lastServed.val + 1 + k.val) →
    (s.slots p).pending = true →
    (∀ j : Fin 4, j < k → (s.slots (Fin.ofNat 4 (s.cf.lastServed.val + 1 + j.val))).pending = false) →
    ∃ t, exec .uPortCellSlot s = .next t ∧
      t =
        (s.setCf { s.cf with slots := upd s.cf.slots p (t.slots p), lastServed := p }).setPort .u
          { s.port .u with sent := (t.port .u).sent, nextSlot := s.now + 2 } ∧
      (let g := s.slots p
       (∀ r ∈ g.fault, (t.port .u).sent = some (.fault p r) ∧ t.slots p = { g with fault := none }) ∧
       (g.fault = none →
        (∀ c : Fin 4, (∀ d : Fin 4, d < c → look g.haltreq d = none) → ∀ h ∈ look g.haltreq c,
          (t.port .u).sent = some (.haltreq p c h) ∧ t.slots p = { g with haltreq := upd g.haltreq c none }) ∧
        ((∀ c : Fin 4, look g.haltreq c = none) →
          (∀ m ∈ g.hold,
            (t.port .u).sent =
              some (.hold p (match m with | .on x => some x | .off => none)) ∧
            t.slots p = { g with hold := none, reported := match m with | .on _ => true | .off => false }) ∧
          (g.hold = none → ∀ v ∈ g.pace, (t.port .u).sent = some (.pace p v) ∧ t.slots p = { g with pace := none }))))

/-! Executions and samplings -/

/-- When the head of a local hold queue is due, its execution removes it, makes it the last executed step, takes
FROZEN at the freeze point and RUNNING from ARMED; at a swap step the other bank becomes active with that swap
epoch; every line in DOMAIN mode of the partition takes the level of its domain at the step, inverted as it
says; no other line moves. What of this is left to the root controller at the root, where a line of its own can
ask for a stop, is under a premise. That an output line's pin stays until the RP ends is read from R99 (log
entry 32). -/
def Obligations.ExecutionsAdvance : Prop :=
  ∀ (p : Part) (e : HoldEntry) (rest : List HoldEntry) (s : State),
    s.Ready →
    s.PaceFollows →
    s.locked = true →
    (s.route p).isLocal = true →
    (s.ctx p).executes = true →
    (s.ctx p).queue = e :: rest →
    e.expiry ≤ s.now →
    ∃ t, exec (.stepExecution p) s = .next t ∧
      (let d := s.dpart p
       t.dpart p =
        (if d.swaps.head? = some e.step then
          { bank := !d.bank, swapEpoch := some e.step, swaps := d.swaps.tail }
        else d)) ∧
      (t.ctx p).last = some e.step ∧
      (∀ i : Fin 16, t.out i =
        if s.onDomainOf (s.out i) p then
          { s.out i with
            level :=
              (let en := look s.dg.entries (entryIndex (t.dpart p).bank (s.out i).slot)
               entryLevel en (if en.anchorSwap then (t.dpart p).swapEpoch.getD (s.ctx p).epoch else (s.ctx p).epoch)
                e.step) != (s.out i).invert }
        else s.out i) ∧
      t.dg.slots = s.dg.slots ∧ t.dg.entries = s.dg.entries ∧
      (∀ q : Fin 4, q ≠ p → t.dpart q = s.dpart q ∧ t.table q = s.table q) ∧ t.now = s.now ∧
      (s.isRoot = false ∨ s.quiet p = true →
        (let c := s.ctx p
         let ends := c.freeze == some (e.step + 1)
         t.ctx p =
          { c with
            queue := rest
            queueSlow := c.queueSlow && decide (s.ma.hub.low < rest.length)
            last := some e.step
            state := if ends then .frozen else if c.state = .armed then .running else c.state
            frozenMark := if ends then s.now else c.frozenMark
            pace := t.paceOf p
            prev := tab fun i => if s.trigSampled p i then some (s.sampleOf i) else s.prev p i }) ∧
        (∀ q : Fin 4, q ≠ p → t.ctx q = s.ctx q ∧ t.slots q = s.slots q) ∧
        (s.isRoot = false → { t.slots p with haltreq := (s.slots p).haltreq, hold := (s.slots p).hold } =
          { s.slots p with pace := s.paceSlotAfter p (t.paceOf p) }) ∧
        t.cf.egress = s.cf.egress ∧
        (((((t.sansLog.setPse s.pse).setCf s.cf).setDg s.dg).setTu s.tu).setHu s.hu).setRc s.rc = s.sansLog.setCf s.cf ∧
        SameStores s t ∧
        (∀ q : Fin 4, t.rootRec q =
          if s.isRoot = true ∧ q = p ∧ t.paceOf p ≠ (s.ctx p).pace then { s.rootRec q with slow := t.paceOf p }
          else s.rootRec q))

/-- The execution samples, in line order, the partition's enabled trigger lines by the majority of their kept
levels: matches count, the target fires, firings make capture records (or meet a full table by the policy),
notes and HALTREQs; and it samples its stall lines into the hold table, with the HOLD summary following. At the
root a firing that halts gives a run cause TRIGGER and a freeze point no higher than its candidate (reckoned
from one step on, since a stall released in the same event may resume the run first: R157). The root's own stall
lines bring STALL and a freeze point when the hold set becomes ON, and take STALL away when it empties. -/
def Obligations.ExecutionsSampleLines : Prop :=
  ∀ (p : Part) (e : HoldEntry) (rest : List HoldEntry) (s : State),
    s.Ready →
    s.PaceFollows →
    s.RootLawful →
    s.locked = true →
    (s.route p).isLocal = true →
    (s.ctx p).executes = true →
    (s.ctx p).queue = e :: rest →
    e.expiry ≤ s.now →
    ∃ t, exec (.stepExecution p) s = .next t ∧
      (∀ i : Fin 8, t.trig i = s.trigAfter p i) ∧ t.tu.kept = s.tu.kept ∧
      t.tu.captures =
        (s.firing p).foldl
          (fun l i => captured s.ma.hub.keepNewest l ⟨i, p, e.step, satSucc (s.trig i).fired⟩) s.tu.captures ∧
      (16 < s.tu.captures.length + (s.firing p).length → s.firing p ≠ [] → t.latched .captureOverflow = true) ∧
      StallsSampled p e.step s t ∧
      (s.isRoot = false ∨ s.quiet p = true →
        (s.tu.captures.length + (s.firing p).length ≤ 16 → Logged [] [] [] s t) ∧
        NotesJoin ((s.firing p).map fun i => .trigger s.ownAddr p i e.step (satSucc (s.trig i).fired)) s t) ∧
      (s.isRoot = false → ∀ c : Fin 4, look (t.slots p).haltreq c =
        match (s.firing p).find? fun i => (s.trig i).halts && (s.trig i).cls == c with
        | some i =>
          if ∀ g ∈ look (s.slots p).haltreq c, e.step < g.stamp then some ⟨e.step, s.ownAddr, i⟩
          else look (s.slots p).haltreq c
        | none => look (s.slots p).haltreq c) ∧
      (s.isRoot = false → s.HoldsAnnounced → (s.stallsMoving p e.step).length ≤ 1 →
        (t.table p).announced = announcedAfter (s.table p).announced (t.table p).stamp ∧
        (t.slots p).hold = (s.slots p).holdAfter (s.table p).announced (t.table p).stamp) ∧
      (s.isRoot = true → (s.rootRec p).state = .running ∨ (s.rootRec p).stands = true → (s.rootRec p).epoch ≤ e.step →
        ∀ i ∈ s.firing p, (s.trig i).halts = true → (s.rootRec p).haltMask.getLsbD (s.trig i).cls = true →
          (t.rootRec p).causes.trigger = true ∧
          ∃ f ∈ (t.rootRec p).freeze, f ≤ min freezeMax (max (e.step + (s.rootRec p).lead) ((s.rootRec p).next + 1))) ∧
      (s.isRoot = true → s.HoldsAnnounced → RootStalls p e.step s t)

/-- In an RP after the one that froze it, a FROZEN local context's stall lines are sampled with the last executed
step, or the epoch, as stamp; at a child the HOLD summary follows. Only the sampled records, the table and the
HOLD slot change, where no own line of the root can ask for a stop. The RP mark by which an RP is later is the
model's own (log entry 26). The root's own lines bring STALL and take it away. -/
def Obligations.FrozenContextsSampleStalls : Prop :=
  ∀ (p : Part) (s : State),
    s.Ready →
    s.locked = true →
    (s.route p).isLocal = true →
    (s.ctx p).state = .frozen →
    (s.ctx p).frozenMark < s.now →
    ∃ t, exec (.frozenStallSampling p) s = .next t ∧
      StallsSampled p ((s.ctx p).last.getD (s.ctx p).epoch) s t ∧ t.dg = s.dg ∧ t.tu = s.tu ∧
      (∀ q : Fin 4, t.slots q = { s.slots q with hold := (t.slots q).hold }) ∧
      (s.isRoot = false → s.HoldsAnnounced →
        (s.stallsMoving p ((s.ctx p).last.getD (s.ctx p).epoch)).length ≤ 1 → HoldFollows p s t) ∧
      (s.isRoot = false ∨ s.quiet p = true →
        t.sansLog =
          (((s.setCtx p { s.ctx p with frozenMark := s.now }).setHu t.hu).setSlots p (t.slots p)).sansLog ∧
        Logged [] [] [] s t ∧ t.cf.noteQ = s.cf.noteQ) ∧
      (s.isRoot = true → s.HoldsAnnounced → s.RootLawful → RootStalls p ((s.ctx p).last.getD (s.ctx p).epoch) s t)

/-! The root -/

/-- When a record's next issue time is reached below the freeze point, the step goes with AGE 0 to the routed links
and to the root's own context with path latency 0; the record keeps step and time, the accumulator and next
issue time follow the period (doubled while slow), a pending swap at the step ends. At 2^40 - 2 LIMIT joins the
causes, and a FREEZE at 2^40 - 1 follows, with its STATE note, unless a freeze point is there. Where the own
hold queue holds 128 steps the own context faults with OVERRUN and takes the record to FAULTED, stopped at its
next step: the report is taken once the issue is complete (log entry 18). -/
def Obligations.StepsAreIssued : Prop :=
  ∀ (p : Part) (a : Nat) (s : State),
    s.Ready →
    s.isRoot = true →
    s.locked = true →
    s.RootPlaced →
    s.PaceFollows →
    (s.rootRec p).state = .running ∨ (s.rootRec p).state = .freezing →
    (s.rootRec p).nextIssue = some a →
    a ≤ s.now →
    (∀ f ∈ (s.rootRec p).freeze, (s.rootRec p).next < f) →
    (s.ctx p).state = .armed ∨ (s.ctx p).state = .running ∨ (s.ctx p).state = .freezing →
    (∀ c ∈ s.faultOf p (.step .u p (s.rootRec p).next 0), c = .overrun) →
    ∃ t, exec (.stepIssue p) s = .next t ∧
      (let r := s.rootRec p
       RootIssues p r (s.ctx p) [] s t ∧ NotesJoin (r.noteAfter p (r.stepsOn s.now) ++ s.overrunNote p t) s t ∧
       (s.issueOverruns p = false → r.limitPoint = none →
        CellLogged (.step .u p r.next 0) p (paceEvents s t) [] s t)) ∧
      SameOutsideRoot s t

/-- When the step before the freeze point was issued A RP ago, or the freeze point is the epoch with no step issued,
ROOT_FROZEN takes the record to FROZEN with its STATE note, and changes nothing else. -/
def Obligations.RecordsFreeze : Prop :=
  ∀ (p : Part) (f : Nat) (s : State),
    s.Ready →
    s.isRoot = true →
    s.locked = true →
    (s.rootRec p).state = .freezing →
    (s.rootRec p).freeze = some f →
    (s.rootRec p).isOver f s.ma.hub.budget s.now = true →
    ∃ t, exec (.rootFrozen p) s = .next t ∧
      t.sansLog = (s.setRootRec p { s.rootRec p with state := .frozen }).sansLog ∧ Logged [] [] [] s t ∧
      NotesJoin [{ s.rootRec p with state := .frozen }.note p] s t

/-- At the root HALTREQ of an enabled class stops the run at the lesser of 2^40 - 1 and the greater of stamp + lead
and the next step, with TRIGGER and its origin, LEAD_SHORT where the lead is too short; in FROZEN it only adds
the cause; masked, old or in FAULTED it is ignored. FAULT takes the record to FAULTED with its report, and stops
the run at the next step. A FREEZE goes to the own context and the routed links where the freeze point is set or
lowered. -/
def Obligations.RootTakesHaltsAndFaults : Prop :=
  ∀ (n : Dn) (p : Part) (cls : Fin 4) (h : HaltReq) (f : FaultReport) (s : State),
    s.Ready →
    s.isRoot = true →
    s.isUp (.d n) = true →
    s.inMask p n = true →
    s.RootContextFollows →
    s.StepsOrdered →
    s.RootLawful →
    (s.rootRec p).state ≠ .idle →
    (∃ t, exec (.haltreq (.d n) p cls h) s = .next t ∧ SameOutsideRoot (s.heard (.d n)) t ∧
      (let r := s.rootRec p
       let cand := min freezeMax (max (h.stamp + r.lead) r.next)
       let causes := { r.causes with trigger := true }
       if r.haltMask.getLsbD cls = false ∨ h.stamp < r.epoch ∨ r.state = .faulted then
        t.rc = s.rc ∧ t.pse = s.pse ∧ t.cf = s.cf
       else if r.state = .frozen then
        t.rc = upd s.rc p { r with causes := causes } ∧ t.pse = s.pse ∧ t.cf = s.cf
       else
        RootStops p cand causes (decide (h.stamp + r.lead < r.next))
          { r.stopsAt cand causes s.ma.hub.budget s.now with
            haltOrigin := if ∀ g ∈ r.freeze, cand < g then some ⟨h.origin, h.line⟩ else r.haltOrigin }
          s t)) ∧
    ∃ t, exec (.fault (.d n) p f) s = .next t ∧ SameOutsideRoot (s.heard (.d n)) t ∧
      (let r := s.rootRec p
       let causes := { r.causes with fault := true }
       if r.state = .faulted then t.rc = s.rc ∧ t.pse = s.pse ∧ t.cf = s.cf
       else
        RootStops p r.next causes false
          { r with
            state := .faulted
            fault := some f
            causes := causes
            freeze := if ∀ g ∈ r.freeze, r.next < g then some r.next else r.freeze
            nextIssue := none }
          s t)

/-- At the root a HOLD ON makes the link's entry active with the lower of the stamps, unless it is below the epoch.
One that makes the hold set ON, or lowers its stamp, stops the run with STALL as a halt does; an OFF that
empties the hold set removes STALL, and with no other cause left in FREEZING or FROZEN the run resumes with its
pending count. That a step due at the resume is part of its event is read from R142 (log entry 18). A step
issued there at 2^40 - 2 brings LIMIT, and one that finds the own hold queue full OVERRUN, as at any issue. -/
def Obligations.RootTakesHolds : Prop :=
  ∀ (n : Dn) (p : Part) (m : Nat) (s : State),
    s.Ready →
    s.isRoot = true →
    s.isUp (.d n) = true →
    s.inMask p n = true →
    s.RootContextFollows →
    s.RootPlaced →
    s.StepsOrdered →
    s.RootLawful →
    s.HoldsAnnounced →
    s.PaceFollows →
    (s.rootRec p).state ≠ .idle →
    (∃ t, exec (.hold (.d n) p (some m)) s = .next t ∧
      (let r := s.rootRec p
       let cand (m : Nat) := min freezeMax (max (m + r.lead) r.next)
       let causes := { r.causes with stall := true }
       (t.table p).entries =
         upd (s.table p).entries (childEntry n)
           (if m < (s.ctx p).epoch then look (s.table p).entries (childEntry n)
           else some (min m ((look (s.table p).entries (childEntry n)).getD m))) ∧
       (t.table p).announced = announcedAfter (s.table p).announced (t.table p).stamp ∧
       (if (t.table p).announced = (s.table p).announced then t.rc = s.rc ∧ t.pse = s.pse ∧ t.cf = s.cf
        else
          ∀ k ∈ (t.table p).announced,
            (r.state = .running ∨ r.state = .freezing →
              RootStops p (cand k) causes (decide (k + r.lead < r.next))
                (r.stopsAt (cand k) causes s.ma.hub.budget s.now) s t) ∧
            (r.state = .frozen → t.rc = upd s.rc p { r with causes := causes } ∧ t.pse = s.pse) ∧
            (r.state = .faulted → t.rc = s.rc ∧ t.pse = s.pse)))) ∧
    ∃ t, exec (.hold (.d n) p none) s = .next t ∧
      (let r := s.rootRec p
       (t.table p).entries = upd (s.table p).entries (childEntry n) none ∧
       (if (t.table p).stamp.isSome = true ∨ (s.table p).announced = none ∨ r.causes.stall = false ∨ r.state = .faulted then
          t.rc = s.rc ∧ t.pse = s.pse ∧ t.cf = s.cf
        else if r.causes ≠ { Causes.none with stall := true } ∨ r.state = .running then
          t.rc = upd s.rc p { r with causes := { r.causes with stall := false } } ∧ t.pse = s.pse
        else RootResumes p (r.pendingCount.getD 0) s t))

/-- START of an IDLE record whose epoch is at most 2^40 - 2 begins the run: the record at its epoch, RUNNING or
counting, its first issue in the next RP; START and the FREEZE of the count at the own context and on the routed
links; note and answer. ABORT takes the record to IDLE in every state, with ABORT at the own context and on the
routed links. -/
def Obligations.CmdStartAndAbort : Prop :=
  ∀ (r : Request) (p : Part) (s : State),
    s.isRoot = true →
    s.PaceFollows →
    s.RootContextFollows →
    s.RootLawful →
    p = Fin.ofNat 4 r.index.toNat →
    (s.Takes .start r → (s.rootRec p).state = .idle → (s.rootRec p).epoch ≤ stepMax →
      ∃ t, exec (.cmdStart r) s = .next t ∧
        (let q := { s.rootRec p with lastIssued := none }
         let f := q.countPoint q.count
         let cs := q.countCauses q.count
         t.rootRec p =
            { q with
              state := if q.count = 0 then .running else .freezing
              lastIssueTime := none
              freeze := f
              causes := cs
              pendingCount := none
              pendingSwap := none
              fault := none
              haltOrigin := none
              acc := 0
              nextIssue := some (s.now + 1)
              slow := t.paceOf p } ∧
          { t.ctx p with frozenMark := 0 } =
            { ({ Context.reset with
                  state := .armed
                  epoch := q.epoch
                  expected := q.epoch
                  pace := t.paceOf p
                  prev := tab fun i => if (s.trig i).part = p then none else s.prev p i } : Context).countedTo f cs
                s.now with frozenMark := 0 } ∧
          (∀ k : Fin 6, t.egress k = s.copiedAll (.start .u p q.epoch :: freezeOf p f cs) p k)) ∧
        t.dg.parts = upd s.dg.parts p ⟨false, none, []⟩ ∧
        t.tu = { s.tu with lines := tab fun i =>
          if (s.trig i).part = p then { s.trig i with count := 0, fired := 0 } else s.trig i } ∧
        (∀ i : Fin 16, t.out i =
          if s.onDomainOf (s.out i) p then { s.out i with level := (s.out i).rest, pin := (s.out i).rest } else s.out i) ∧
        OthersOnlyPace p s t ∧ NotesJoin [(t.rootRec p).note p] s t ∧
        t.cf.respQ = (s.answersWith r .ok (t.rootRec p).state.code).cf.respQ ∧
        t.dg.slots = s.dg.slots ∧ t.dg.entries = s.dg.entries ∧ t.hu = (s.setTable p HoldTable.reset).hu ∧
        t.cf.slots = upd s.cf.slots p Slots.reset ∧ t.cf.routes = s.cf.routes ∧ t.cf.lastServed = s.cf.lastServed ∧
        ((((((t.sansLog.setPse s.pse).setCf s.cf).setDg s.dg).setTu s.tu).setHu s.hu).setRc s.rc) =
          ((takeHead s).sansLog).setCf s.cf) ∧
    (s.Takes .abort r →
      ∃ t, exec (.cmdAbort r) s = .next t ∧
        t.rootRec p =
          { s.rootRec p with
            state := .idle
            freeze := none
            causes := Causes.none
            pendingCount := none
            pendingSwap := none
            nextIssue := none
            slow := false
            acc := 0 } ∧
        t.ctx p =
          { Context.reset with
            epoch := (s.ctx p).epoch
            expected := (s.ctx p).expected
            last := (s.ctx p).last
            pace := t.paceOf p
            prev := (s.ctx p).prev
            frozenMark := (s.ctx p).frozenMark } ∧
        (∀ k : Fin 6, t.egress k = s.copied (.abort .u p) p k) ∧
        t.dg.parts = upd s.dg.parts p ⟨(s.dpart p).bank, none, []⟩ ∧ t.tu = s.tu ∧
        (∀ i : Fin 16, t.out i =
          if s.onDomainOf (s.out i) p then { s.out i with level := (s.out i).rest, pin := (s.out i).rest } else s.out i) ∧
        OthersOnlyPace p s t ∧ NotesJoin ((s.rootRec p).noteAfter p (t.rootRec p)) s t ∧
        t.cf.respQ = (s.answersWith r .ok 0).cf.respQ ∧
        t.dg.slots = s.dg.slots ∧ t.dg.entries = s.dg.entries ∧ t.hu = (s.setTable p HoldTable.reset).hu ∧
        t.cf.slots = upd s.cf.slots p Slots.reset ∧ t.cf.routes = s.cf.routes ∧ t.cf.lastServed = s.cf.lastServed ∧
        ((((((t.sansLog.setPse s.pse).setCf s.cf).setDg s.dg).setTu s.tu).setHu s.hu).setRc s.rc) =
          ((takeHead s).sansLog).setCf s.cf)

/-- PAUSE stops a run at its next step with CONTROL, a lower freeze point kept and FROZEN at once where R147 says
so; in FROZEN it adds the cause; in IDLE and FAULTED it is refused with BAD_STATE and changes nothing. SWAP of a
step not below the next one, with none pending, is held, sent to the routed links and put in the own context's
record where it fits. Both are answered OK with the record's state. That a PAUSE which keeps the freeze point
leaves FREEZING until the FROZEN moment is taken is the model's choice (log entry 35). -/
def Obligations.CmdPauseAndSwap : Prop :=
  ∀ (r : Request) (p : Part) (s : State),
    s.isRoot = true →
    s.RootContextFollows →
    s.StepsOrdered →
    s.RootLawful →
    p = Fin.ofNat 4 r.index.toNat →
    (s.Takes .pause r → (s.rootRec p).state = .running ∨ (s.rootRec p).stands = true →
      ∃ t, exec (.cmdPause r) s = .next t ∧ RootAnswers r (t.rootRec p).state s t ∧
        (let q := s.rootRec p
         let causes := { q.causes with control := true }
         if q.state = .frozen then t.rc = upd s.rc p { q with causes := causes } ∧ t.pse = s.pse ∧ t.cf.egress = s.cf.egress
         else
          t.rc = upd s.rc p (q.stopsAt q.next causes s.ma.hub.budget s.now) ∧
          NotesJoin (q.noteAfter p (t.rootRec p)) s t ∧
          (if ∀ g ∈ q.freeze, q.next < g then
            t.pse = upd s.pse p ((s.ctx p).stoppedAt q.next causes s.now) ∧
            ∀ k : Fin 6, t.egress k = s.copied (.freeze .u p q.next causes false) p k
          else t.pse = s.pse ∧ t.cf.egress = s.cf.egress))) ∧
    (s.Takes .pause r → (s.rootRec p).state = .idle ∨ (s.rootRec p).state = .faulted →
      Answers (.cmdPause r) r s (takeHead s) .badState 0) ∧
    (s.Takes .swap r → (s.rootRec p).state = .running ∨ (s.rootRec p).stands = true →
      (s.rootRec p).swapStep ≤ stepMax → (s.rootRec p).pendingSwap = none →
      (s.rootRec p).next ≤ (s.rootRec p).swapStep →
      ∃ t, exec (.cmdSwap r) s = .next t ∧
        (let q := s.rootRec p
         let l := (s.dpart p).swaps
         let fits := decide (l.length < 4) && l.getLast?.all fun v => decide (v < q.swapStep)
         t.rc = upd s.rc p { q with pendingSwap := some q.swapStep } ∧
         t.dpart p =
          (if (s.route p).isLocal && fits && (s.ctx p).inRun then { s.dpart p with swaps := l ++ [q.swapStep] }
           else s.dpart p) ∧
         (∀ k : Fin 6, t.egress k = s.copied (.swap .u p q.swapStep) p k)) ∧
        t.dg = (s.setDPart p (t.dpart p)).dg ∧ t.cf.slots = s.cf.slots ∧ t.cf.routes = s.cf.routes ∧
        t.cf.lastServed = s.cf.lastServed ∧
        ((t.sansLog.setCf s.cf).setDg s.dg).setRc s.rc = ((takeHead s).sansLog).setCf s.cf ∧
        t.cf.respQ = (s.answersWith r .ok (s.rootRec p).state.code).cf.respQ)

/-- CONTINUE of a FREEZING or FROZEN record without LIMIT removes CONTROL, TRIGGER and COUNT. With no cause left the
run resumes: RESUME, the FREEZE of a new count and a step that is due, in this order, at the own context and on
the links. Else the count waits with the record. That the step is part of the event, and the STATE note after
it, is read from R142 and R156 (log entry 18). The step brings LIMIT or OVERRUN as at any issue; the answer
gives the state at the end of the resume. -/
def Obligations.CmdContinueResumes : Prop :=
  ∀ (r : Request) (p : Part) (s : State),
    s.Takes .continue r →
    s.isRoot = true →
    s.RootContextFollows →
    s.RootPlaced →
    s.StepsOrdered →
    s.RootLawful →
    s.PaceFollows →
    p = Fin.ofNat 4 r.index.toNat →
    (s.rootRec p).stands = true →
    (s.rootRec p).causes.limit = false →
    ∃ t, exec (.cmdContinue r) s = .next t ∧
      (let q := s.rootRec p
       let causes := { q.causes with control := false, trigger := false, count := false }
       if causes = Causes.none then
        RootAnswers r (q.afterResume q.count s.now).state s t ∧ RootResumes p q.count s t
       else
        RootAnswers r q.state s t ∧
        t.rc =
          upd s.rc p { q with causes := causes, pendingCount := if q.count = 0 then none else some q.count } ∧
        t.pse = s.pse ∧ t.cf.egress = s.cf.egress)

/-- START of a record that is not IDLE answers BAD_STATE, one with an epoch above 2^40 - 2 BAD_VALUE; CONTINUE in
FAULTED FAULTED, in IDLE or RUNNING BAD_STATE, with LIMIT LIMIT; SWAP in IDLE or FAULTED BAD_STATE, above 2^40 -
2 BAD_VALUE, with one pending BUSY, below the next step TOO_LATE, tested in this order. A refusal changes
nothing but the agent's queue, and its VALUE is 0. -/
def Obligations.RootCommandsRefused : Prop :=
  ∀ (r : Request) (p : Part) (s : State),
    s.isRoot = true →
    p = Fin.ofNat 4 r.index.toNat →
    (let q := s.rootRec p
     let h := takeHead s
     (s.Takes .start r →
      (q.state ≠ .idle → Answers (.cmdStart r) r s h .badState 0) ∧
      (q.state = .idle → stepMax < q.epoch → Answers (.cmdStart r) r s h .badValue 0)) ∧
     (s.Takes .continue r →
      (q.state = .faulted → Answers (.cmdContinue r) r s h .faulted 0) ∧
      (q.state = .idle ∨ q.state = .running → Answers (.cmdContinue r) r s h .badState 0) ∧
      (q.stands = true → q.causes.limit = true → Answers (.cmdContinue r) r s h .limit 0)) ∧
     (s.Takes .swap r →
      (q.state = .idle ∨ q.state = .faulted → Answers (.cmdSwap r) r s h .badState 0) ∧
      (q.state = .running ∨ q.stands = true →
        (stepMax < q.swapStep → Answers (.cmdSwap r) r s h .badValue 0) ∧
        (q.swapStep ≤ stepMax → q.pendingSwap ≠ none → Answers (.cmdSwap r) r s h .busy 0) ∧
        (q.swapStep < q.next → q.swapStep ≤ stepMax → q.pendingSwap = none →
          Answers (.cmdSwap r) r s h .tooLate 0))))

/-! The management agent -/

/-- For each of the sixteen rows of requests: an undefined object answers BAD_OBJECT, ROOT_PARTITION at a child
NOT_ROOT, an index out of range BAD_INDEX, an undefined field or operation BAD_FIELD, in this order, with VALUE
0 and nothing changed but the agent's queue. A row at which the agent takes no request, or one of another row,
is no event: the model's choice (log entry 6). A READ answers the field's value and changes nothing; that
MANAGEMENT_WRITE is its row is the model's choice (log entry 7). The values of IDENT, of step numbers by halves
with 0x8000_0000 for absent, of CAPTURE records or BAD_INDEX, of counters and of EVENTS are spelled out by Table
9-1. -/
def Obligations.RequestsAreJudged : Prop :=
  ∀ (c : Instr) (row : AgentRow) (r : Request) (s : State),
    s.Ready →
    c.agentRow = some (row, r) →
    (s.mayTake r = false ∨ r.row ≠ row → exec c s = .next s) ∧
    (s.mayTake r = true → r.row = row →
      (indexCount r.object.toNat = 0 → Answers c r s (takeHead s) .badObject 0) ∧
      (r.object = 0x0E#8 → s.isRoot = false → Answers c r s (takeHead s) .notRoot 0) ∧
      (0 < indexCount r.object.toNat → (r.object = 0x0E#8 → s.isRoot = true) →
        (indexCount r.object.toNat ≤ r.index.toNat → Answers c r s (takeHead s) .badIndex 0) ∧
        (r.index.toNat < indexCount r.object.toNat → opDefined r.op r.object.toNat r.field.toNat = false →
          Answers c r s (takeHead s) .badField 0))) ∧
    (s.Takes .managementWrite r → r.op = .read →
      AnswersAs (.managementWrite r) r s
        (match s.read r.object.toNat r.index.toNat r.field.toNat with
         | some v => (takeHead s, .ok, v)
         | none => (takeHead s).declines .badIndex)) ∧
    (s.Takes .managementWrite r → r.op = .read →
      (let i := r.index.toNat
       let f := r.field.toNat
       let p : Fin 4 := Fin.ofNat 4 i
       let gives (v : Nat) := AnswersAs (.managementWrite r) r s (takeHead s, .ok, v)
       let givesStep (k : Nat) (o : Option Nat) :=
         (f = k → gives ((o.map fun n => n / 2 ^ 32).getD 0x80000000)) ∧
         (f = k + 1 → gives ((o.map fun n => n % 2 ^ 32).getD 0))
       (r.object = 0x01#8 →
         (f = 0 → gives 0x5744) ∧ (f = 1 → gives 0x0460) ∧ (f = 2 → gives 0x0001) ∧
         (f = 3 → gives (if s.isRoot then 1 else 0)) ∧ (f = 4 → gives (s.lp.depth.getD 0x80000000)) ∧
         (f = 5 → gives ((s.lp.address.map BitVec.toNat).getD 0x80000000)) ∧
         (f = 6 → gives (if s.ma.resetCause = .powerOn then 0 else 1))) ∧
       (r.object = 0x05#8 →
         givesStep 1 (some (s.ctx p).epoch) ∧ givesStep 3 (some (s.ctx p).expected) ∧ givesStep 5 (s.ctx p).last ∧
         givesStep 7 (s.ctx p).freeze ∧ (f = 10 → (s.ctx p).fault = none → gives 0x80000000) ∧
         (f = 12 → gives (s.ctx p).queue.length)) ∧
       (r.object = 0x06#8 → givesStep 3 (s.dpart (look s.dg.slots (Fin.ofNat 16 i))).swaps.head?) ∧
       (r.object = 0x0A#8 →
         givesStep 5 (look (s.table (s.stall (Fin.ofNat 4 i)).part).entries (stallEntry (Fin.ofNat 4 i)))) ∧
       (r.object = 0x0B#8 →
         (f = 5 → gives s.tu.captures.length) ∧
         (f ≠ 5 → s.tu.captures.length ≤ i →
           AnswersAs (.managementWrite r) r s ((takeHead s).declines .badIndex)) ∧
         ∀ c ∈ s.tu.captures[i]?, (f = 0 → gives c.line.val) ∧ (f = 1 → gives c.part.val) ∧
           givesStep 2 (some c.step) ∧ (f = 4 → gives c.occurrence)) ∧
       (r.object = 0x0C#8 →
         (∀ x : Fin 7, ∀ k : Fin 8, i = 8 * x.val + k.val → gives (s.counter (portOf x.val) k)) ∧
         ∀ k : Fin 3, i = 56 + k.val → gives (s.hubCounter k)) ∧
       (r.object = 0x0D#8 → (f = 0 → gives s.ma.latches.toNat) ∧ (f = 1 → gives s.ma.enables.toNat)) ∧
       (r.object = 0x0E#8 →
         givesStep 2 (s.rootRec p).freeze ∧ givesStep 4 (s.rootRec p).lastIssued ∧
         givesStep 6 (some (s.rootRec p).epoch) ∧ givesStep 9 (some (s.rootRec p).swapStep) ∧
         givesStep 16 (s.rootRec p).pendingSwap)))

/-- RETRAIN sets the attempt count to 0 and takes the port to TRAINING with a new window, or to DOWN where it is not
enabled or has no signal; a port in UP has the loss of a link besides. FLUSH empties the three queues of a link
and answers how many cells went, with pace states following. Index 6 answers BAD_INDEX. Log entries 11, 14 and
22 hold here as at any loss of a link. -/
def Obligations.LinkCommands : Prop :=
  ∀ (r : Request) (n : Dn) (s : State),
    s.PaceFollows →
    (s.Takes .retrain r → r.index.toNat = n.val → s.isUp (.d n) = false →
      Answers (.cmdRetrain r) r s
        (let willing := s.locked && (s.isRoot || s.isUp .u) && decide (s.lp.depth.getD 3 ≤ 2) && (s.port (.d n)).signal
         let q : Port := { s.port (.d n) with attempts := 0, state := .down }
         (endWork (.d n) (takeHead s)).setPort (.d n)
          (if willing then { q with state := .training, trainRun := 0, windowFrom := s.now } else q)) .ok 0) ∧
    (s.Takes .retrain r → r.index.toNat = n.val → s.isUp (.d n) = true → s.isRoot = false → s.LinksFollow →
      s.HoldsAnnounced →
      ∃ t, exec (.cmdRetrain r) s = .next t ∧
        (t.port (.d n)).sansLog =
          ({ s.port (.d n) with attempts := 0, state := .training, trainRun := 0, windowFrom := s.now } : Port).sansLog ∧
        ChildLost n s t ∧ Logged (.linkDown :: paceEvents s t) ((.d n, kLinkLoss) :: s.dropsAnswer r) [] s t ∧
        t.ma.queue = s.ma.queue.tail ∧ t.ma.lastTake = some s.now ∧
        t.cf.respQ = (s.answersWith r .ok 0).cf.respQ ∧ t.dg = s.dg ∧ t.tu = s.tu ∧ t.ref = s.ref ∧
        (∀ x ∈ allPorts, x ≠ .d n → (t.port x).sansLog = (s.port x).sansLog)) ∧
    (s.Takes .retrain r → r.index.toNat = n.val → s.isUp (.d n) = true → s.isRoot = true → s.LinksFollow →
      ∃ t, exec (.cmdRetrain r) s = .next t ∧
        (t.port (.d n)).sansLog =
          ({ s.port (.d n) with attempts := 0, state := .training, trainRun := 0, windowFrom := s.now } : Port).sansLog ∧
        t.egress n = Egress.reset ∧ t.counter (.d n) kLinkLoss = satSucc (s.counter (.d n) kLinkLoss) ∧
        t.ma.queue = s.ma.queue.tail ∧ t.ma.lastTake = some s.now ∧
        t.latched .linkDown = true ∧ t.dg = s.dg ∧ t.tu = s.tu ∧ t.ref = s.ref ∧
        (∀ x ∈ allPorts, x ≠ .d n → (t.port x).sansLog = (s.port x).sansLog) ∧
        ∀ p : Fin 4,
          look (t.table p).entries (childEntry n) = none ∧ look (t.ctx p).childSlow n = false ∧
          (s.inMask p n = true → (s.ctx p).inRun = true → (s.rootRec p).state = .running ∨ (s.rootRec p).stands = true →
            (t.rootRec p).state = .faulted ∧
            (t.rootRec p).fault = some ⟨.childLink, 0x0000#16, (s.ctx p).last⟩)) ∧
    (s.Takes .flush r → r.index.toNat = n.val →
      ∃ t, exec (.cmdFlush r) s = .next t ∧
        t.egress n = ⟨[], [], [], false⟩ ∧ (∀ k : Fin 6, k ≠ n → t.egress k = s.egress k) ∧
        t.cf.respQ =
          (s.answersWith r .ok
            ((s.egress n).urgent.length + (s.egress n).steps.length + (s.egress n).mgmt.length)).cf.respQ ∧
        (∀ p : Fin 4, t.ctx p = { s.ctx p with pace := t.paceOf p } ∧
          (s.isRoot = false → t.slots p = { s.slots p with pace := s.paceSlotAfter p (t.paceOf p) })) ∧
        ((t.sansLog.setPse s.pse).setCf s.cf).setRc s.rc = ((takeHead s).sansLog).setCf s.cf ∧
        Logged [] (s.dropsAnswer r) [] s t) ∧
    (s.Takes .retrain r → r.index.toNat = 6 → Answers (.cmdRetrain r) r s (takeHead s) .badIndex 0) ∧
    (s.Takes .flush r → r.index.toNat = 6 → Answers (.cmdFlush r) r s (takeHead s) .badIndex 0)

/-- Writes to each field of an output, trigger or stall line: refused IN_USE in the stated cases, BAD_VALUE out of
range, clamped for a trigger target, and else taken with their effects: the output line at its new rest level,
the count of a trigger line against a new target, the previous sample of a line turned on, the entry of a stall
line turned off. At the root a released entry that empties the hold set takes STALL away. IN_USE ahead of
BAD_VALUE for a partition value above 3 is the model's choice (log entry 30). -/
def Obligations.BoardWrites : Prop :=
  ∀ (r : Request) (i : Fin 16) (j : Fin 8) (k : Fin 4) (s : State),
    (s.Takes .outputWrite r → r.index.toNat = i.val →
      (let h := takeHead s
       let f := r.field.toNat
       let v := r.value.toNat
       let o := s.out i
       let busy (q : OutLine) := q.domain && !s.idleAt (look s.dg.slots q.slot)
       let q : OutLine :=
        if f = 0 then { o with domain := v == 1 }
        else if f = 1 then { o with slot := Fin.ofNat 16 v }
        else if f = 2 then { o with invert := v == 1 }
        else { o with rest := v == 1 }
       AnswersAs (.outputWrite r) r s
        (if busy o then h.declines .inUse
        else if (if f = 1 then 15 else 1) < v then h.declines .badValue
        else if busy q then h.declines .inUse
        else (h.setOut i { q with level := q.rest, pin := q.rest }).holds v v))) ∧
    (s.Takes .triggerWrite r → r.index.toNat = j.val →
      (let h := takeHead s
       let f := r.field.toNat
       let v := r.value.toNat
       let l := s.trig j
       let n := max 1 (min 65535 v)
       AnswersAs (.triggerWrite r) r s
        (if f = 1 ∧ ((s.ctx l.part).state ≠ .idle ∨ (v ≤ 3 ∧ (s.ctx (Fin.ofNat 4 v)).state ≠ .idle)) then h.declines .inUse
        else if f ≠ 3 ∧ (if f = 1 ∨ f = 2 ∨ f = 6 then 3 else 1) < v then h.declines .badValue
        else if f = 0 then
          ((h.setTrig j { l with enable := v == 1 }).setCtx l.part
            { s.ctx l.part with
              prev :=
                if v = 1 ∧ l.enable = false then upd (s.ctx l.part).prev j none else (s.ctx l.part).prev }).holds v v
        else if f = 1 then (h.setTrig j { l with part := Fin.ofNat 4 v }).holds v v
        else if f = 2 then
          (h.setTrig j
            { l with mode := if v = 0 then .rise else if v = 1 then .fall else if v = 2 then .high else .low }).holds v v
        else if f = 3 then
          (h.setTrig j { l with target := n, count := if n ≤ l.count then 0 else l.count }).holds v n
        else if f = 4 then (h.setTrig j { l with repeats := v == 1 }).holds v v
        else if f = 5 then (h.setTrig j { l with halts := v == 1 }).holds v v
        else (h.setTrig j { l with cls := Fin.ofNat 4 v }).holds v v))) ∧
    (s.Takes .stallWrite r → r.index.toNat = k.val →
      (let h := takeHead s
       let f := r.field.toNat
       let v := r.value.toNat
       let l := s.stall k
       let releases := f = 0 ∧ v = 0 ∧ l.enable = true ∧ (look (s.table l.part).entries (stallEntry k)).isSome = true
       (¬releases →
        AnswersAs (.stallWrite r) r s
          (if f = 1 ∧ ((s.ctx l.part).state ≠ .idle ∨ (v ≤ 3 ∧ (s.ctx (Fin.ofNat 4 v)).state ≠ .idle)) then
            h.declines .inUse
          else if (if f = 1 then 3 else 1) < v then h.declines .badValue
          else if f = 0 then (h.setStall k { l with enable := v == 1 }).holds v v
          else if f = 1 then (h.setStall k { l with part := Fin.ofNat 4 v }).holds v v
          else (h.setStall k { l with activeLow := v == 1 }).holds v v)) ∧
       (releases → s.isRoot = false → s.HoldsAnnounced →
        ∃ t, exec (.stallWrite r) s = .next t ∧ t.stall k = { l with enable := false } ∧
          (t.table l.part).entries = upd (s.table l.part).entries (stallEntry k) none ∧
          HoldFollows l.part s t ∧ t.cf.respQ = (s.answersWith r .ok 0).cf.respQ ∧
          (t.sansLog.setCf s.cf).setHu s.hu = ((takeHead s).sansLog).setCf s.cf ∧
          Logged [] (s.dropsAnswer r) [] s t) ∧
       (releases → s.isRoot = true → s.HoldsAnnounced →
        ∃ t, exec (.stallWrite r) s = .next t ∧ t.stall k = { l with enable := false } ∧
          (t.table l.part).entries = upd (s.table l.part).entries (stallEntry k) none ∧
          (t.table l.part).announced = announcedAfter (s.table l.part).announced (t.table l.part).stamp ∧
          ((t.table l.part).stamp ≠ none → t.rc = s.rc ∧ t.pse = s.pse) ∧
          ((t.table l.part).stamp = none → (s.rootRec l.part).state = .running ∨ (s.rootRec l.part).stands = true →
            (t.rootRec l.part).causes.stall = false) ∧
          t.cf.respQ = (s.answersWith r .ok 0).cf.respQ)))

/-- A write to HUB takes A only with every context IDLE, clamps A and the water marks and keeps low below high; a
write to COUNTER sets the counter to 0; a write to EVENTS clears the written latches or sets the enables; a POP
of CAPTURE removes the oldest record and answers how many it removed. Where the answer finds room in its queue,
nothing else changes at all. -/
def Obligations.HubWrites : Prop :=
  ∀ (r : Request) (s : State),
    (s.Takes .hubWrite r →
      (let h := takeHead s
       let f := r.field.toNat
       let v := r.value.toNat
       let q := s.ma.hub
       let a := max 64 (min 16383 v)
       let n := max 2 (min 127 v)
       let m := max 1 (min (q.high - 1) v)
       let put (q : HubSettings) := h.setMa { h.ma with hub := q }
       AnswersAs (.hubWrite r) r s
        (if f = 0 then
          if allParts.all fun p => s.idleAt p then (put { q with budget := a }).holds v a else h.declines .inUse
        else if f = 1 then
          if v ≤ 1 then (put { q with keepNewest := v == 1 }).holds v v else h.declines .badValue
        else if f = 2 then
          (put { q with high := n, low := if n ≤ q.low then n - 1 else q.low },
            if v = n ∧ q.low < n then .ok else .clamped, n)
        else (put { q with low := m }).holds v m))) ∧
    (s.Takes .counterWrite r →
      (∀ x : Fin 7, ∀ k : Fin 8, r.index.toNat = 8 * x.val + k.val →
        (let p := s.port (portOf x.val)
         Answers (.counterWrite r) r s
          ((takeHead s).setPort (portOf x.val) { p with counters := upd p.counters k 0 }) .ok 0)) ∧
      (∀ k : Fin 3, r.index.toNat = 56 + k.val →
        Answers (.counterWrite r) r s
          ((takeHead s).setMa { (takeHead s).ma with counters := upd s.ma.counters k 0 }) .ok 0)) ∧
    (s.Takes .eventsWrite r →
      (let h := takeHead s
       let v := r.value
       let kept := s.ma.latches &&& ~~~(v.setWidth 16)
       AnswersAs (.eventsWrite r) r s
        (if 0xFFFF < v.toNat then h.declines .badValue
        else if r.field = 0#8 then (h.setMa { h.ma with latches := kept }, .ok, kept.toNat)
        else (h.setMa { h.ma with enables := v.setWidth 16 }).holds v.toNat v.toNat))) ∧
    (s.Takes .capturePop r →
      Answers (.capturePop r) r s ((takeHead s).setTu { s.tu with captures := s.tu.captures.tail }) .ok
        (if s.tu.captures = [] then 0 else 1))

/-- A write to a field of a domain entry is refused IN_USE exactly when the entry's bank is active for a slot whose
partition's context is not IDLE; otherwise mode, period, phase, duty code and anchor are judged by their ranges,
taken, clamped or refused BAD_VALUE. Writes to ROUTE, DOMAIN_SLOT and the settings of ROOT_PARTITION are judged
by their own rules. That a new link mask gives its pace state at once is read from R84 (log entry 21), and
IN_USE ahead of BAD_VALUE for an epoch field is read from the rule (log entry 30). -/
def Obligations.ManagementRequests : Prop :=
  ∀ (r : Request) (p : Part) (i : Fin 16) (b : Bool) (s : State),
    s.Takes .managementWrite r →
    (let c := Instr.managementWrite r
     let h := takeHead s
     let f := r.field.toNat
     let v := r.value.toNat
     (r.op = .write → r.object = 0x04#8 → r.index.toNat = p.val →
      (let e := s.route p
       (f = 1 ∨ 63 < v ∨ (s.ctx p).state ≠ .idle →
        AnswersAs c r s
          (if (s.ctx p).state ≠ .idle then h.declines .inUse
          else if (if f = 0 then 63 else 1) < v then h.declines .badValue
          else (h.setRoute p { e with isLocal := v == 1 }).holds v v)) ∧
       (f = 0 → v ≤ 63 → (s.ctx p).state = .idle →
        ∃ t, exec c s = .next t ∧ t.route p = { e with mask := BitVec.ofNat 6 v } ∧
          (∀ q : Fin 4, q ≠ p → t.route q = s.route q) ∧ t.cf.egress = s.cf.egress ∧ t.cf.slots = s.cf.slots ∧
          t.pse = upd s.pse p { s.ctx p with pace := t.paceOf p } ∧
          (t.sansLog.setPse s.pse).setCf s.cf = (h.sansLog).setCf s.cf ∧
          t.cf.respQ = (s.answersWith r .ok v).cf.respQ ∧ Logged (paceEvents s t) (s.dropsAnswer r) [] s t))) ∧
     (r.op = .write → r.object = 0x06#8 → r.index.toNat = i.val →
      AnswersAs c r s
        (if (s.ctx (look s.dg.slots i)).state ≠ .idle ∨ (v ≤ 3 ∧ (s.ctx (Fin.ofNat 4 v)).state ≠ .idle) then
          h.declines .inUse
        else if 3 < v then h.declines .badValue
        else (h.setDg { s.dg with slots := upd s.dg.slots i (Fin.ofNat 4 v) }).holds v v)) ∧
     (r.op = .write → r.object = 0x07#8 → r.index.toNat = (if b then 16 else 0) + i.val →
      (let held := look s.dg.slots i
       let e := look s.dg.entries (entryIndex b i)
       let put (q : DomainEntry) := h.setDg { s.dg with entries := upd s.dg.entries (entryIndex b i) q }
       AnswersAs c r s
        (if (s.dpart held).bank = b ∧ (s.ctx held).state ≠ .idle then h.declines .inUse
        else if f = 0 then
          if v ≤ 2 then
            (put { e with mode := if v = 0 then .clock else if v = 1 then .heldLow else .heldHigh }).holds v v
          else h.declines .badValue
        else if f = 1 then
          if 2 ≤ v ∧ v ≤ 65535 then (put { e with period := v }).holds v v else h.declines .badValue
        else if f = 2 then (put { e with phase := min 65535 v }).holds v (min 65535 v)
        else if f = 3 then (put { e with duty := max 1 (min 63 v) }).holds v (max 1 (min 63 v))
        else if v ≤ 1 then (put { e with anchorSwap := v == 1 }).holds v v
        else h.declines .badValue))) ∧
     (r.op = .write → r.object = 0x0E#8 → r.index.toNat = p.val →
      (let q := s.rootRec p
       AnswersAs c r s
        (if (f = 6 ∨ f = 7) ∧ q.state ≠ .idle then h.declines .inUse
        else if ((f = 6 ∨ f = 9) ∧ 255 < v) ∨ (f = 13 ∧ 15 < v) then h.declines .badValue
        else if f = 6 then (h.setRootRec p { q with epoch := hiReplaced q.epoch v }).holds v v
        else if f = 7 then (h.setRootRec p { q with epoch := loReplaced q.epoch v }).holds v v
        else if f = 8 then (h.setRootRec p { q with count := v }).holds v v
        else if f = 9 then (h.setRootRec p { q with swapStep := hiReplaced q.swapStep v }).holds v v
        else if f = 10 then (h.setRootRec p { q with swapStep := loReplaced q.swapStep v }).holds v v
        else if f = 11 then
          (h.setRootRec p { q with period := max 256 (min 1048575 v) }).holds v (max 256 (min 1048575 v))
        else if f = 12 then (h.setRootRec p { q with lead := max 1 (min 4095 v) }).holds v (max 1 (min 4095 v))
        else (h.setRootRec p { q with haltMask := BitVec.ofNat 4 v }).holds v v))))
end

