-- ==== Sys2Proof/Laws/Cells.lean ====
section
/-! SUPPORT. What the layout of a field-list kind can be, whatever places `Config` gives its fields (R1, log entry 5). -/

namespace Sys2Proof

@[simp] theorem beBytes_length (n v : Nat) : (beBytes n v).length = n := by
  induction n with
  | zero => rfl
  | succ n ih => simp [beBytes, ih]

@[simp] theorem zeros_length (n : Nat) : (zeros n).length = n := by simp [zeros]

/-- Whatever the order, every field stands once. -/
theorem inOrder_perm (k : Kind) : ∀ l : List Field, (inOrder k l).Perm l
  | [] => .refl _
  | x :: l => by
    have ih := inOrder_perm k l
    have hl : Config.fieldOrder k l.length % (l.length + 1) ≤ (inOrder k l).length := by
      have := Nat.mod_lt (Config.fieldOrder k l.length) (show 0 < l.length + 1 by omega)
      rw [ih.length_eq]; omega
    exact (List.perm_insertIdx x _ hl).trans (ih.cons x)

/-- The bytes of the fields and the spare ones. -/
theorem laidOut_length (k : Kind) :
    ∀ (spare : Nat) (l : List Field), (laidOut k spare l).length = spare + (l.map Field.bytes).sum
  | spare, [] => by simp [laidOut]
  | spare, x :: l => by
    have hg := Nat.mod_lt (Config.fieldGap k l.length) (show 0 < spare + 1 by omega)
    simp only [laidOut, List.length_append, zeros_length, beBytes_length, laidOut_length k _ l, List.map_cons,
      List.sum_cons]
    omega

/-- Each field stands in the body, most significant byte first. -/
theorem laidOut_infix (k : Kind) (x : Field) :
    ∀ (spare : Nat) (l : List Field), x ∈ l → beBytes x.bytes x.value <:+: laidOut k spare l
  | _, [], h => by simp at h
  | spare, y :: l, h => by
    simp only [laidOut]
    rcases List.mem_cons.mp h with rfl | h
    · exact ⟨_, _, rfl⟩
    · exact (laidOut_infix k x _ l h).trans (List.suffix_append _ _).isInfix

/-- Without its zero bytes the body is the fields without theirs. -/
theorem laidOut_used (k : Kind) :
    ∀ (spare : Nat) (l : List Field),
      (laidOut k spare l).filter (fun b => b != 0#8) =
        (l.flatMap fun x => beBytes x.bytes x.value).filter fun b => b != 0#8
  | spare, [] => by simp [laidOut, zeros]
  | spare, x :: l => by simpa [laidOut, zeros] using laidOut_used k _ l

/-- The body of a field-list kind is thirteen bytes. -/
theorem Cell.fieldBody_length (c : Cell) : c.fieldBody.length = 13 := by
  have h : (c.fields.map Field.bytes).sum ≤ 13 := by
    have hm : (c.markField.map Field.bytes).sum ≤ 1 := by
      unfold Cell.markField
      split <;> (try split) <;> simp
    simp only [Cell.fields, List.map_append, List.sum_append]
    rcases c with _ | _ | ⟨_, _ | _ | _ | _ | _⟩ | _ | _ | _ | _ | _ | _ | _ | _ | _ | _ <;> simp <;> omega
  rw [Cell.fieldBody, laidOut_length, ((inOrder_perm _ _).map Field.bytes).sum_eq]
  omega

/-- All that is not zero in the body of a field-list kind is its fields' (R1). -/
theorem Cell.fieldBody_used (c : Cell) :
    (c.fieldBody.filter fun b => b != 0#8).Perm
      ((c.fields.flatMap fun x => beBytes x.bytes x.value).filter fun b => b != 0#8) := by
  rw [Cell.fieldBody, laidOut_used]
  exact ((inOrder_perm _ _).flatMap_right _).filter _

end Sys2Proof
end

