-- ==== Sys2Proof/Laws/State.lean ====
section
/-! SUPPORT. What each reader of State sees after each writer: one lemma per field and writer, and the laws of a bank. -/

namespace Sys2Proof

/-! Banks -/

@[simp] theorem look_upd_self {α : Type} {n : Nat} (v : Vector α n) (i : Fin n) (a : α) : look (upd v i a) i = a := by
  simp [look, upd]

@[simp] theorem look_upd_ne {α : Type} {n : Nat} (v : Vector α n) (i j : Fin n) (a : α) (h : i ≠ j) :
    look (upd v i a) j = look v j := by
  simp [look, upd, Fin.val_ne_of_ne h]

theorem look_upd {α : Type} {n : Nat} (v : Vector α n) (i j : Fin n) (a : α) :
    look (upd v i a) j = if i = j then a else look v j := by
  by_cases h : i = j
  · subst h; simp
  · simp [h]

@[simp] theorem look_tab {α : Type} {n : Nat} (f : Fin n → α) (i : Fin n) : look (tab f) i = f i := by
  simp [look, tab]

theorem bank_ext {α : Type} {n : Nat} {v w : Vector α n} (h : ∀ i, look v i = look w i) : v = w :=
  Vector.ext fun i hi => h ⟨i, hi⟩

@[simp] theorem upd_look {α : Type} {n : Nat} (v : Vector α n) (i : Fin n) : upd v i (look v i) = v :=
  bank_ext fun j => by by_cases h : i = j <;> simp [h]

@[simp] theorem upd_upd {α : Type} {n : Nat} (v : Vector α n) (i : Fin n) (a b : α) :
    upd (upd v i a) i b = upd v i b :=
  bank_ext fun j => by by_cases h : i = j <;> simp [h]

theorem tab_look {α : Type} {n : Nat} (v : Vector α n) : (tab fun i => look v i) = v := bank_ext fun i => by simp

end Sys2Proof

namespace Sys2Proof.Machine

open Sys2Proof

/-! Blocks -/

@[simp] theorem State.setNow_pending (s : State) (v : Nat) : (s.setNow v).pending = s.pending := rfl
@[simp] theorem State.setNow_porst (s : State) (v : Nat) : (s.setNow v).porst = s.porst := rfl
@[simp] theorem State.setNow_role (s : State) (v : Nat) : (s.setNow v).role = s.role := rfl
@[simp] theorem State.setNow_now (s : State) (v : Nat) : (s.setNow v).now = v := rfl
@[simp] theorem State.setNow_lp (s : State) (v : Nat) : (s.setNow v).lp = s.lp := rfl
@[simp] theorem State.setNow_ref (s : State) (v : Nat) : (s.setNow v).ref = s.ref := rfl
@[simp] theorem State.setNow_cf (s : State) (v : Nat) : (s.setNow v).cf = s.cf := rfl
@[simp] theorem State.setNow_pse (s : State) (v : Nat) : (s.setNow v).pse = s.pse := rfl
@[simp] theorem State.setNow_dg (s : State) (v : Nat) : (s.setNow v).dg = s.dg := rfl
@[simp] theorem State.setNow_tu (s : State) (v : Nat) : (s.setNow v).tu = s.tu := rfl
@[simp] theorem State.setNow_hu (s : State) (v : Nat) : (s.setNow v).hu = s.hu := rfl
@[simp] theorem State.setNow_rc (s : State) (v : Nat) : (s.setNow v).rc = s.rc := rfl
@[simp] theorem State.setNow_ma (s : State) (v : Nat) : (s.setNow v).ma = s.ma := rfl
@[simp] theorem State.setNow_own (s : State) (v : Nat) : (s.setNow v).own = s.own := rfl
@[simp] theorem State.setNow_self (s : State) : s.setNow s.now = s := rfl
@[simp] theorem State.setNow_setNow (s : State) (v w : Nat) : (s.setNow v).setNow w = s.setNow w := rfl

@[simp] theorem State.setLp_pending (s : State) (v : LinkPorts) : (s.setLp v).pending = s.pending := rfl
@[simp] theorem State.setLp_porst (s : State) (v : LinkPorts) : (s.setLp v).porst = s.porst := rfl
@[simp] theorem State.setLp_role (s : State) (v : LinkPorts) : (s.setLp v).role = s.role := rfl
@[simp] theorem State.setLp_now (s : State) (v : LinkPorts) : (s.setLp v).now = s.now := rfl
@[simp] theorem State.setLp_lp (s : State) (v : LinkPorts) : (s.setLp v).lp = v := rfl
@[simp] theorem State.setLp_ref (s : State) (v : LinkPorts) : (s.setLp v).ref = s.ref := rfl
@[simp] theorem State.setLp_cf (s : State) (v : LinkPorts) : (s.setLp v).cf = s.cf := rfl
@[simp] theorem State.setLp_pse (s : State) (v : LinkPorts) : (s.setLp v).pse = s.pse := rfl
@[simp] theorem State.setLp_dg (s : State) (v : LinkPorts) : (s.setLp v).dg = s.dg := rfl
@[simp] theorem State.setLp_tu (s : State) (v : LinkPorts) : (s.setLp v).tu = s.tu := rfl
@[simp] theorem State.setLp_hu (s : State) (v : LinkPorts) : (s.setLp v).hu = s.hu := rfl
@[simp] theorem State.setLp_rc (s : State) (v : LinkPorts) : (s.setLp v).rc = s.rc := rfl
@[simp] theorem State.setLp_ma (s : State) (v : LinkPorts) : (s.setLp v).ma = s.ma := rfl
@[simp] theorem State.setLp_own (s : State) (v : LinkPorts) : (s.setLp v).own = s.own := rfl
@[simp] theorem State.setLp_self (s : State) : s.setLp s.lp = s := rfl
@[simp] theorem State.setLp_setLp (s : State) (v w : LinkPorts) : (s.setLp v).setLp w = s.setLp w := rfl

@[simp] theorem State.setRef_pending (s : State) (v : RefUnit) : (s.setRef v).pending = s.pending := rfl
@[simp] theorem State.setRef_porst (s : State) (v : RefUnit) : (s.setRef v).porst = s.porst := rfl
@[simp] theorem State.setRef_role (s : State) (v : RefUnit) : (s.setRef v).role = s.role := rfl
@[simp] theorem State.setRef_now (s : State) (v : RefUnit) : (s.setRef v).now = s.now := rfl
@[simp] theorem State.setRef_lp (s : State) (v : RefUnit) : (s.setRef v).lp = s.lp := rfl
@[simp] theorem State.setRef_ref (s : State) (v : RefUnit) : (s.setRef v).ref = v := rfl
@[simp] theorem State.setRef_cf (s : State) (v : RefUnit) : (s.setRef v).cf = s.cf := rfl
@[simp] theorem State.setRef_pse (s : State) (v : RefUnit) : (s.setRef v).pse = s.pse := rfl
@[simp] theorem State.setRef_dg (s : State) (v : RefUnit) : (s.setRef v).dg = s.dg := rfl
@[simp] theorem State.setRef_tu (s : State) (v : RefUnit) : (s.setRef v).tu = s.tu := rfl
@[simp] theorem State.setRef_hu (s : State) (v : RefUnit) : (s.setRef v).hu = s.hu := rfl
@[simp] theorem State.setRef_rc (s : State) (v : RefUnit) : (s.setRef v).rc = s.rc := rfl
@[simp] theorem State.setRef_ma (s : State) (v : RefUnit) : (s.setRef v).ma = s.ma := rfl
@[simp] theorem State.setRef_own (s : State) (v : RefUnit) : (s.setRef v).own = s.own := rfl
@[simp] theorem State.setRef_self (s : State) : s.setRef s.ref = s := rfl
@[simp] theorem State.setRef_setRef (s : State) (v w : RefUnit) : (s.setRef v).setRef w = s.setRef w := rfl

@[simp] theorem State.setCf_pending (s : State) (v : Forwarder) : (s.setCf v).pending = s.pending := rfl
@[simp] theorem State.setCf_porst (s : State) (v : Forwarder) : (s.setCf v).porst = s.porst := rfl
@[simp] theorem State.setCf_role (s : State) (v : Forwarder) : (s.setCf v).role = s.role := rfl
@[simp] theorem State.setCf_now (s : State) (v : Forwarder) : (s.setCf v).now = s.now := rfl
@[simp] theorem State.setCf_lp (s : State) (v : Forwarder) : (s.setCf v).lp = s.lp := rfl
@[simp] theorem State.setCf_ref (s : State) (v : Forwarder) : (s.setCf v).ref = s.ref := rfl
@[simp] theorem State.setCf_cf (s : State) (v : Forwarder) : (s.setCf v).cf = v := rfl
@[simp] theorem State.setCf_pse (s : State) (v : Forwarder) : (s.setCf v).pse = s.pse := rfl
@[simp] theorem State.setCf_dg (s : State) (v : Forwarder) : (s.setCf v).dg = s.dg := rfl
@[simp] theorem State.setCf_tu (s : State) (v : Forwarder) : (s.setCf v).tu = s.tu := rfl
@[simp] theorem State.setCf_hu (s : State) (v : Forwarder) : (s.setCf v).hu = s.hu := rfl
@[simp] theorem State.setCf_rc (s : State) (v : Forwarder) : (s.setCf v).rc = s.rc := rfl
@[simp] theorem State.setCf_ma (s : State) (v : Forwarder) : (s.setCf v).ma = s.ma := rfl
@[simp] theorem State.setCf_own (s : State) (v : Forwarder) : (s.setCf v).own = s.own := rfl
@[simp] theorem State.setCf_self (s : State) : s.setCf s.cf = s := rfl
@[simp] theorem State.setCf_setCf (s : State) (v w : Forwarder) : (s.setCf v).setCf w = s.setCf w := rfl

@[simp] theorem State.setPse_pending (s : State) (v : Vector Context 4) : (s.setPse v).pending = s.pending := rfl
@[simp] theorem State.setPse_porst (s : State) (v : Vector Context 4) : (s.setPse v).porst = s.porst := rfl
@[simp] theorem State.setPse_role (s : State) (v : Vector Context 4) : (s.setPse v).role = s.role := rfl
@[simp] theorem State.setPse_now (s : State) (v : Vector Context 4) : (s.setPse v).now = s.now := rfl
@[simp] theorem State.setPse_lp (s : State) (v : Vector Context 4) : (s.setPse v).lp = s.lp := rfl
@[simp] theorem State.setPse_ref (s : State) (v : Vector Context 4) : (s.setPse v).ref = s.ref := rfl
@[simp] theorem State.setPse_cf (s : State) (v : Vector Context 4) : (s.setPse v).cf = s.cf := rfl
@[simp] theorem State.setPse_pse (s : State) (v : Vector Context 4) : (s.setPse v).pse = v := rfl
@[simp] theorem State.setPse_dg (s : State) (v : Vector Context 4) : (s.setPse v).dg = s.dg := rfl
@[simp] theorem State.setPse_tu (s : State) (v : Vector Context 4) : (s.setPse v).tu = s.tu := rfl
@[simp] theorem State.setPse_hu (s : State) (v : Vector Context 4) : (s.setPse v).hu = s.hu := rfl
@[simp] theorem State.setPse_rc (s : State) (v : Vector Context 4) : (s.setPse v).rc = s.rc := rfl
@[simp] theorem State.setPse_ma (s : State) (v : Vector Context 4) : (s.setPse v).ma = s.ma := rfl
@[simp] theorem State.setPse_own (s : State) (v : Vector Context 4) : (s.setPse v).own = s.own := rfl
@[simp] theorem State.setPse_self (s : State) : s.setPse s.pse = s := rfl
@[simp] theorem State.setPse_setPse (s : State) (v w : Vector Context 4) : (s.setPse v).setPse w = s.setPse w := rfl

@[simp] theorem State.setDg_pending (s : State) (v : DomainGen) : (s.setDg v).pending = s.pending := rfl
@[simp] theorem State.setDg_porst (s : State) (v : DomainGen) : (s.setDg v).porst = s.porst := rfl
@[simp] theorem State.setDg_role (s : State) (v : DomainGen) : (s.setDg v).role = s.role := rfl
@[simp] theorem State.setDg_now (s : State) (v : DomainGen) : (s.setDg v).now = s.now := rfl
@[simp] theorem State.setDg_lp (s : State) (v : DomainGen) : (s.setDg v).lp = s.lp := rfl
@[simp] theorem State.setDg_ref (s : State) (v : DomainGen) : (s.setDg v).ref = s.ref := rfl
@[simp] theorem State.setDg_cf (s : State) (v : DomainGen) : (s.setDg v).cf = s.cf := rfl
@[simp] theorem State.setDg_pse (s : State) (v : DomainGen) : (s.setDg v).pse = s.pse := rfl
@[simp] theorem State.setDg_dg (s : State) (v : DomainGen) : (s.setDg v).dg = v := rfl
@[simp] theorem State.setDg_tu (s : State) (v : DomainGen) : (s.setDg v).tu = s.tu := rfl
@[simp] theorem State.setDg_hu (s : State) (v : DomainGen) : (s.setDg v).hu = s.hu := rfl
@[simp] theorem State.setDg_rc (s : State) (v : DomainGen) : (s.setDg v).rc = s.rc := rfl
@[simp] theorem State.setDg_ma (s : State) (v : DomainGen) : (s.setDg v).ma = s.ma := rfl
@[simp] theorem State.setDg_own (s : State) (v : DomainGen) : (s.setDg v).own = s.own := rfl
@[simp] theorem State.setDg_self (s : State) : s.setDg s.dg = s := rfl
@[simp] theorem State.setDg_setDg (s : State) (v w : DomainGen) : (s.setDg v).setDg w = s.setDg w := rfl

@[simp] theorem State.setTu_pending (s : State) (v : TriggerUnit) : (s.setTu v).pending = s.pending := rfl
@[simp] theorem State.setTu_porst (s : State) (v : TriggerUnit) : (s.setTu v).porst = s.porst := rfl
@[simp] theorem State.setTu_role (s : State) (v : TriggerUnit) : (s.setTu v).role = s.role := rfl
@[simp] theorem State.setTu_now (s : State) (v : TriggerUnit) : (s.setTu v).now = s.now := rfl
@[simp] theorem State.setTu_lp (s : State) (v : TriggerUnit) : (s.setTu v).lp = s.lp := rfl
@[simp] theorem State.setTu_ref (s : State) (v : TriggerUnit) : (s.setTu v).ref = s.ref := rfl
@[simp] theorem State.setTu_cf (s : State) (v : TriggerUnit) : (s.setTu v).cf = s.cf := rfl
@[simp] theorem State.setTu_pse (s : State) (v : TriggerUnit) : (s.setTu v).pse = s.pse := rfl
@[simp] theorem State.setTu_dg (s : State) (v : TriggerUnit) : (s.setTu v).dg = s.dg := rfl
@[simp] theorem State.setTu_tu (s : State) (v : TriggerUnit) : (s.setTu v).tu = v := rfl
@[simp] theorem State.setTu_hu (s : State) (v : TriggerUnit) : (s.setTu v).hu = s.hu := rfl
@[simp] theorem State.setTu_rc (s : State) (v : TriggerUnit) : (s.setTu v).rc = s.rc := rfl
@[simp] theorem State.setTu_ma (s : State) (v : TriggerUnit) : (s.setTu v).ma = s.ma := rfl
@[simp] theorem State.setTu_own (s : State) (v : TriggerUnit) : (s.setTu v).own = s.own := rfl
@[simp] theorem State.setTu_self (s : State) : s.setTu s.tu = s := rfl
@[simp] theorem State.setTu_setTu (s : State) (v w : TriggerUnit) : (s.setTu v).setTu w = s.setTu w := rfl

@[simp] theorem State.setHu_pending (s : State) (v : HoldUnit) : (s.setHu v).pending = s.pending := rfl
@[simp] theorem State.setHu_porst (s : State) (v : HoldUnit) : (s.setHu v).porst = s.porst := rfl
@[simp] theorem State.setHu_role (s : State) (v : HoldUnit) : (s.setHu v).role = s.role := rfl
@[simp] theorem State.setHu_now (s : State) (v : HoldUnit) : (s.setHu v).now = s.now := rfl
@[simp] theorem State.setHu_lp (s : State) (v : HoldUnit) : (s.setHu v).lp = s.lp := rfl
@[simp] theorem State.setHu_ref (s : State) (v : HoldUnit) : (s.setHu v).ref = s.ref := rfl
@[simp] theorem State.setHu_cf (s : State) (v : HoldUnit) : (s.setHu v).cf = s.cf := rfl
@[simp] theorem State.setHu_pse (s : State) (v : HoldUnit) : (s.setHu v).pse = s.pse := rfl
@[simp] theorem State.setHu_dg (s : State) (v : HoldUnit) : (s.setHu v).dg = s.dg := rfl
@[simp] theorem State.setHu_tu (s : State) (v : HoldUnit) : (s.setHu v).tu = s.tu := rfl
@[simp] theorem State.setHu_hu (s : State) (v : HoldUnit) : (s.setHu v).hu = v := rfl
@[simp] theorem State.setHu_rc (s : State) (v : HoldUnit) : (s.setHu v).rc = s.rc := rfl
@[simp] theorem State.setHu_ma (s : State) (v : HoldUnit) : (s.setHu v).ma = s.ma := rfl
@[simp] theorem State.setHu_own (s : State) (v : HoldUnit) : (s.setHu v).own = s.own := rfl
@[simp] theorem State.setHu_self (s : State) : s.setHu s.hu = s := rfl
@[simp] theorem State.setHu_setHu (s : State) (v w : HoldUnit) : (s.setHu v).setHu w = s.setHu w := rfl

@[simp] theorem State.setRc_pending (s : State) (v : Vector RootRec 4) : (s.setRc v).pending = s.pending := rfl
@[simp] theorem State.setRc_porst (s : State) (v : Vector RootRec 4) : (s.setRc v).porst = s.porst := rfl
@[simp] theorem State.setRc_role (s : State) (v : Vector RootRec 4) : (s.setRc v).role = s.role := rfl
@[simp] theorem State.setRc_now (s : State) (v : Vector RootRec 4) : (s.setRc v).now = s.now := rfl
@[simp] theorem State.setRc_lp (s : State) (v : Vector RootRec 4) : (s.setRc v).lp = s.lp := rfl
@[simp] theorem State.setRc_ref (s : State) (v : Vector RootRec 4) : (s.setRc v).ref = s.ref := rfl
@[simp] theorem State.setRc_cf (s : State) (v : Vector RootRec 4) : (s.setRc v).cf = s.cf := rfl
@[simp] theorem State.setRc_pse (s : State) (v : Vector RootRec 4) : (s.setRc v).pse = s.pse := rfl
@[simp] theorem State.setRc_dg (s : State) (v : Vector RootRec 4) : (s.setRc v).dg = s.dg := rfl
@[simp] theorem State.setRc_tu (s : State) (v : Vector RootRec 4) : (s.setRc v).tu = s.tu := rfl
@[simp] theorem State.setRc_hu (s : State) (v : Vector RootRec 4) : (s.setRc v).hu = s.hu := rfl
@[simp] theorem State.setRc_rc (s : State) (v : Vector RootRec 4) : (s.setRc v).rc = v := rfl
@[simp] theorem State.setRc_ma (s : State) (v : Vector RootRec 4) : (s.setRc v).ma = s.ma := rfl
@[simp] theorem State.setRc_own (s : State) (v : Vector RootRec 4) : (s.setRc v).own = s.own := rfl
@[simp] theorem State.setRc_self (s : State) : s.setRc s.rc = s := rfl
@[simp] theorem State.setRc_setRc (s : State) (v w : Vector RootRec 4) : (s.setRc v).setRc w = s.setRc w := rfl

@[simp] theorem State.setMa_pending (s : State) (v : Agent) : (s.setMa v).pending = s.pending := rfl
@[simp] theorem State.setMa_porst (s : State) (v : Agent) : (s.setMa v).porst = s.porst := rfl
@[simp] theorem State.setMa_role (s : State) (v : Agent) : (s.setMa v).role = s.role := rfl
@[simp] theorem State.setMa_now (s : State) (v : Agent) : (s.setMa v).now = s.now := rfl
@[simp] theorem State.setMa_lp (s : State) (v : Agent) : (s.setMa v).lp = s.lp := rfl
@[simp] theorem State.setMa_ref (s : State) (v : Agent) : (s.setMa v).ref = s.ref := rfl
@[simp] theorem State.setMa_cf (s : State) (v : Agent) : (s.setMa v).cf = s.cf := rfl
@[simp] theorem State.setMa_pse (s : State) (v : Agent) : (s.setMa v).pse = s.pse := rfl
@[simp] theorem State.setMa_dg (s : State) (v : Agent) : (s.setMa v).dg = s.dg := rfl
@[simp] theorem State.setMa_tu (s : State) (v : Agent) : (s.setMa v).tu = s.tu := rfl
@[simp] theorem State.setMa_hu (s : State) (v : Agent) : (s.setMa v).hu = s.hu := rfl
@[simp] theorem State.setMa_rc (s : State) (v : Agent) : (s.setMa v).rc = s.rc := rfl
@[simp] theorem State.setMa_ma (s : State) (v : Agent) : (s.setMa v).ma = v := rfl
@[simp] theorem State.setMa_own (s : State) (v : Agent) : (s.setMa v).own = s.own := rfl
@[simp] theorem State.setMa_self (s : State) : s.setMa s.ma = s := rfl
@[simp] theorem State.setMa_setMa (s : State) (v w : Agent) : (s.setMa v).setMa w = s.setMa w := rfl

@[simp] theorem State.setOwn_pending (s : State) (v : ModelOwn) : (s.setOwn v).pending = s.pending := rfl
@[simp] theorem State.setOwn_porst (s : State) (v : ModelOwn) : (s.setOwn v).porst = s.porst := rfl
@[simp] theorem State.setOwn_role (s : State) (v : ModelOwn) : (s.setOwn v).role = s.role := rfl
@[simp] theorem State.setOwn_now (s : State) (v : ModelOwn) : (s.setOwn v).now = s.now := rfl
@[simp] theorem State.setOwn_lp (s : State) (v : ModelOwn) : (s.setOwn v).lp = s.lp := rfl
@[simp] theorem State.setOwn_ref (s : State) (v : ModelOwn) : (s.setOwn v).ref = s.ref := rfl
@[simp] theorem State.setOwn_cf (s : State) (v : ModelOwn) : (s.setOwn v).cf = s.cf := rfl
@[simp] theorem State.setOwn_pse (s : State) (v : ModelOwn) : (s.setOwn v).pse = s.pse := rfl
@[simp] theorem State.setOwn_dg (s : State) (v : ModelOwn) : (s.setOwn v).dg = s.dg := rfl
@[simp] theorem State.setOwn_tu (s : State) (v : ModelOwn) : (s.setOwn v).tu = s.tu := rfl
@[simp] theorem State.setOwn_hu (s : State) (v : ModelOwn) : (s.setOwn v).hu = s.hu := rfl
@[simp] theorem State.setOwn_rc (s : State) (v : ModelOwn) : (s.setOwn v).rc = s.rc := rfl
@[simp] theorem State.setOwn_ma (s : State) (v : ModelOwn) : (s.setOwn v).ma = s.ma := rfl
@[simp] theorem State.setOwn_own (s : State) (v : ModelOwn) : (s.setOwn v).own = v := rfl
@[simp] theorem State.setOwn_self (s : State) : s.setOwn s.own = s := rfl
@[simp] theorem State.setOwn_setOwn (s : State) (v w : ModelOwn) : (s.setOwn v).setOwn w = s.setOwn w := rfl

/-! Entries of a bank: the entry written, the other entries, and the blocks beside -/

@[simp] theorem State.setPort_pending (s : State) (x : PortId) (a : Port) : (s.setPort x a).pending = s.pending := by cases x <;> rfl
@[simp] theorem State.setPort_porst (s : State) (x : PortId) (a : Port) : (s.setPort x a).porst = s.porst := by cases x <;> rfl
@[simp] theorem State.setPort_role (s : State) (x : PortId) (a : Port) : (s.setPort x a).role = s.role := by cases x <;> rfl
@[simp] theorem State.setPort_now (s : State) (x : PortId) (a : Port) : (s.setPort x a).now = s.now := by cases x <;> rfl
@[simp] theorem State.setPort_ref (s : State) (x : PortId) (a : Port) : (s.setPort x a).ref = s.ref := by cases x <;> rfl
@[simp] theorem State.setPort_cf (s : State) (x : PortId) (a : Port) : (s.setPort x a).cf = s.cf := by cases x <;> rfl
@[simp] theorem State.setPort_pse (s : State) (x : PortId) (a : Port) : (s.setPort x a).pse = s.pse := by cases x <;> rfl
@[simp] theorem State.setPort_dg (s : State) (x : PortId) (a : Port) : (s.setPort x a).dg = s.dg := by cases x <;> rfl
@[simp] theorem State.setPort_tu (s : State) (x : PortId) (a : Port) : (s.setPort x a).tu = s.tu := by cases x <;> rfl
@[simp] theorem State.setPort_hu (s : State) (x : PortId) (a : Port) : (s.setPort x a).hu = s.hu := by cases x <;> rfl
@[simp] theorem State.setPort_rc (s : State) (x : PortId) (a : Port) : (s.setPort x a).rc = s.rc := by cases x <;> rfl
@[simp] theorem State.setPort_ma (s : State) (x : PortId) (a : Port) : (s.setPort x a).ma = s.ma := by cases x <;> rfl
@[simp] theorem State.setPort_own (s : State) (x : PortId) (a : Port) : (s.setPort x a).own = s.own := by cases x <;> rfl
@[simp] theorem State.port_setPort_self (s : State) (x : PortId) (a : Port) : (s.setPort x a).port x = a := by
  cases x <;> simp [State.setPort, State.port]
@[simp] theorem State.port_setPort_ne (s : State) (x y : PortId) (a : Port) (h : x ≠ y) :
    (s.setPort x a).port y = s.port y := by
  cases x <;> cases y <;> simp_all [State.setPort, State.port]

@[simp] theorem State.setDLink_pending (s : State) (n : Dn) (a : DLink) : (s.setDLink n a).pending = s.pending := rfl
@[simp] theorem State.setDLink_porst (s : State) (n : Dn) (a : DLink) : (s.setDLink n a).porst = s.porst := rfl
@[simp] theorem State.setDLink_role (s : State) (n : Dn) (a : DLink) : (s.setDLink n a).role = s.role := rfl
@[simp] theorem State.setDLink_now (s : State) (n : Dn) (a : DLink) : (s.setDLink n a).now = s.now := rfl
@[simp] theorem State.setDLink_ref (s : State) (n : Dn) (a : DLink) : (s.setDLink n a).ref = s.ref := rfl
@[simp] theorem State.setDLink_cf (s : State) (n : Dn) (a : DLink) : (s.setDLink n a).cf = s.cf := rfl
@[simp] theorem State.setDLink_pse (s : State) (n : Dn) (a : DLink) : (s.setDLink n a).pse = s.pse := rfl
@[simp] theorem State.setDLink_dg (s : State) (n : Dn) (a : DLink) : (s.setDLink n a).dg = s.dg := rfl
@[simp] theorem State.setDLink_tu (s : State) (n : Dn) (a : DLink) : (s.setDLink n a).tu = s.tu := rfl
@[simp] theorem State.setDLink_hu (s : State) (n : Dn) (a : DLink) : (s.setDLink n a).hu = s.hu := rfl
@[simp] theorem State.setDLink_rc (s : State) (n : Dn) (a : DLink) : (s.setDLink n a).rc = s.rc := rfl
@[simp] theorem State.setDLink_ma (s : State) (n : Dn) (a : DLink) : (s.setDLink n a).ma = s.ma := rfl
@[simp] theorem State.setDLink_own (s : State) (n : Dn) (a : DLink) : (s.setDLink n a).own = s.own := rfl
@[simp] theorem State.dlink_setDLink_self (s : State) (n : Dn) (a : DLink) : (s.setDLink n a).dlink n = a := by
  simp [State.setDLink, State.dlink]
@[simp] theorem State.dlink_setDLink_ne (s : State) (n j : Dn) (a : DLink) (h : n ≠ j) :
    (s.setDLink n a).dlink j = s.dlink j := by
  simp [State.setDLink, State.dlink, h]
@[simp] theorem State.setDLink_dlink (s : State) (n : Dn) : s.setDLink n (s.dlink n) = s := by
  simp only [State.setDLink, State.dlink, upd_look]
  rfl

@[simp] theorem State.setRoute_pending (s : State) (p : Part) (a : RouteEntry) : (s.setRoute p a).pending = s.pending := rfl
@[simp] theorem State.setRoute_porst (s : State) (p : Part) (a : RouteEntry) : (s.setRoute p a).porst = s.porst := rfl
@[simp] theorem State.setRoute_role (s : State) (p : Part) (a : RouteEntry) : (s.setRoute p a).role = s.role := rfl
@[simp] theorem State.setRoute_now (s : State) (p : Part) (a : RouteEntry) : (s.setRoute p a).now = s.now := rfl
@[simp] theorem State.setRoute_lp (s : State) (p : Part) (a : RouteEntry) : (s.setRoute p a).lp = s.lp := rfl
@[simp] theorem State.setRoute_ref (s : State) (p : Part) (a : RouteEntry) : (s.setRoute p a).ref = s.ref := rfl
@[simp] theorem State.setRoute_pse (s : State) (p : Part) (a : RouteEntry) : (s.setRoute p a).pse = s.pse := rfl
@[simp] theorem State.setRoute_dg (s : State) (p : Part) (a : RouteEntry) : (s.setRoute p a).dg = s.dg := rfl
@[simp] theorem State.setRoute_tu (s : State) (p : Part) (a : RouteEntry) : (s.setRoute p a).tu = s.tu := rfl
@[simp] theorem State.setRoute_hu (s : State) (p : Part) (a : RouteEntry) : (s.setRoute p a).hu = s.hu := rfl
@[simp] theorem State.setRoute_rc (s : State) (p : Part) (a : RouteEntry) : (s.setRoute p a).rc = s.rc := rfl
@[simp] theorem State.setRoute_ma (s : State) (p : Part) (a : RouteEntry) : (s.setRoute p a).ma = s.ma := rfl
@[simp] theorem State.setRoute_own (s : State) (p : Part) (a : RouteEntry) : (s.setRoute p a).own = s.own := rfl
@[simp] theorem State.route_setRoute_self (s : State) (p : Part) (a : RouteEntry) : (s.setRoute p a).route p = a := by
  simp [State.setRoute, State.route]
@[simp] theorem State.route_setRoute_ne (s : State) (p j : Part) (a : RouteEntry) (h : p ≠ j) :
    (s.setRoute p a).route j = s.route j := by
  simp [State.setRoute, State.route, h]
@[simp] theorem State.setRoute_route (s : State) (p : Part) : s.setRoute p (s.route p) = s := by
  simp only [State.setRoute, State.route, upd_look]
  rfl

@[simp] theorem State.setEgress_pending (s : State) (n : Dn) (a : Egress) : (s.setEgress n a).pending = s.pending := rfl
@[simp] theorem State.setEgress_porst (s : State) (n : Dn) (a : Egress) : (s.setEgress n a).porst = s.porst := rfl
@[simp] theorem State.setEgress_role (s : State) (n : Dn) (a : Egress) : (s.setEgress n a).role = s.role := rfl
@[simp] theorem State.setEgress_now (s : State) (n : Dn) (a : Egress) : (s.setEgress n a).now = s.now := rfl
@[simp] theorem State.setEgress_lp (s : State) (n : Dn) (a : Egress) : (s.setEgress n a).lp = s.lp := rfl
@[simp] theorem State.setEgress_ref (s : State) (n : Dn) (a : Egress) : (s.setEgress n a).ref = s.ref := rfl
@[simp] theorem State.setEgress_pse (s : State) (n : Dn) (a : Egress) : (s.setEgress n a).pse = s.pse := rfl
@[simp] theorem State.setEgress_dg (s : State) (n : Dn) (a : Egress) : (s.setEgress n a).dg = s.dg := rfl
@[simp] theorem State.setEgress_tu (s : State) (n : Dn) (a : Egress) : (s.setEgress n a).tu = s.tu := rfl
@[simp] theorem State.setEgress_hu (s : State) (n : Dn) (a : Egress) : (s.setEgress n a).hu = s.hu := rfl
@[simp] theorem State.setEgress_rc (s : State) (n : Dn) (a : Egress) : (s.setEgress n a).rc = s.rc := rfl
@[simp] theorem State.setEgress_ma (s : State) (n : Dn) (a : Egress) : (s.setEgress n a).ma = s.ma := rfl
@[simp] theorem State.setEgress_own (s : State) (n : Dn) (a : Egress) : (s.setEgress n a).own = s.own := rfl
@[simp] theorem State.egress_setEgress_self (s : State) (n : Dn) (a : Egress) : (s.setEgress n a).egress n = a := by
  simp [State.setEgress, State.egress]
@[simp] theorem State.egress_setEgress_ne (s : State) (n j : Dn) (a : Egress) (h : n ≠ j) :
    (s.setEgress n a).egress j = s.egress j := by
  simp [State.setEgress, State.egress, h]
@[simp] theorem State.setEgress_egress (s : State) (n : Dn) : s.setEgress n (s.egress n) = s := by
  simp only [State.setEgress, State.egress, upd_look]
  rfl

@[simp] theorem State.setSlots_pending (s : State) (p : Part) (a : Slots) : (s.setSlots p a).pending = s.pending := rfl
@[simp] theorem State.setSlots_porst (s : State) (p : Part) (a : Slots) : (s.setSlots p a).porst = s.porst := rfl
@[simp] theorem State.setSlots_role (s : State) (p : Part) (a : Slots) : (s.setSlots p a).role = s.role := rfl
@[simp] theorem State.setSlots_now (s : State) (p : Part) (a : Slots) : (s.setSlots p a).now = s.now := rfl
@[simp] theorem State.setSlots_lp (s : State) (p : Part) (a : Slots) : (s.setSlots p a).lp = s.lp := rfl
@[simp] theorem State.setSlots_ref (s : State) (p : Part) (a : Slots) : (s.setSlots p a).ref = s.ref := rfl
@[simp] theorem State.setSlots_pse (s : State) (p : Part) (a : Slots) : (s.setSlots p a).pse = s.pse := rfl
@[simp] theorem State.setSlots_dg (s : State) (p : Part) (a : Slots) : (s.setSlots p a).dg = s.dg := rfl
@[simp] theorem State.setSlots_tu (s : State) (p : Part) (a : Slots) : (s.setSlots p a).tu = s.tu := rfl
@[simp] theorem State.setSlots_hu (s : State) (p : Part) (a : Slots) : (s.setSlots p a).hu = s.hu := rfl
@[simp] theorem State.setSlots_rc (s : State) (p : Part) (a : Slots) : (s.setSlots p a).rc = s.rc := rfl
@[simp] theorem State.setSlots_ma (s : State) (p : Part) (a : Slots) : (s.setSlots p a).ma = s.ma := rfl
@[simp] theorem State.setSlots_own (s : State) (p : Part) (a : Slots) : (s.setSlots p a).own = s.own := rfl
@[simp] theorem State.slots_setSlots_self (s : State) (p : Part) (a : Slots) : (s.setSlots p a).slots p = a := by
  simp [State.setSlots, State.slots]
@[simp] theorem State.slots_setSlots_ne (s : State) (p j : Part) (a : Slots) (h : p ≠ j) :
    (s.setSlots p a).slots j = s.slots j := by
  simp [State.setSlots, State.slots, h]
@[simp] theorem State.setSlots_slots (s : State) (p : Part) : s.setSlots p (s.slots p) = s := by
  simp only [State.setSlots, State.slots, upd_look]
  rfl

@[simp] theorem State.setCtx_pending (s : State) (p : Part) (a : Context) : (s.setCtx p a).pending = s.pending := rfl
@[simp] theorem State.setCtx_porst (s : State) (p : Part) (a : Context) : (s.setCtx p a).porst = s.porst := rfl
@[simp] theorem State.setCtx_role (s : State) (p : Part) (a : Context) : (s.setCtx p a).role = s.role := rfl
@[simp] theorem State.setCtx_now (s : State) (p : Part) (a : Context) : (s.setCtx p a).now = s.now := rfl
@[simp] theorem State.setCtx_lp (s : State) (p : Part) (a : Context) : (s.setCtx p a).lp = s.lp := rfl
@[simp] theorem State.setCtx_ref (s : State) (p : Part) (a : Context) : (s.setCtx p a).ref = s.ref := rfl
@[simp] theorem State.setCtx_cf (s : State) (p : Part) (a : Context) : (s.setCtx p a).cf = s.cf := rfl
@[simp] theorem State.setCtx_dg (s : State) (p : Part) (a : Context) : (s.setCtx p a).dg = s.dg := rfl
@[simp] theorem State.setCtx_tu (s : State) (p : Part) (a : Context) : (s.setCtx p a).tu = s.tu := rfl
@[simp] theorem State.setCtx_hu (s : State) (p : Part) (a : Context) : (s.setCtx p a).hu = s.hu := rfl
@[simp] theorem State.setCtx_rc (s : State) (p : Part) (a : Context) : (s.setCtx p a).rc = s.rc := rfl
@[simp] theorem State.setCtx_ma (s : State) (p : Part) (a : Context) : (s.setCtx p a).ma = s.ma := rfl
@[simp] theorem State.setCtx_own (s : State) (p : Part) (a : Context) : (s.setCtx p a).own = s.own := rfl
@[simp] theorem State.ctx_setCtx_self (s : State) (p : Part) (a : Context) : (s.setCtx p a).ctx p = a := by
  simp [State.setCtx, State.ctx]
@[simp] theorem State.ctx_setCtx_ne (s : State) (p j : Part) (a : Context) (h : p ≠ j) :
    (s.setCtx p a).ctx j = s.ctx j := by
  simp [State.setCtx, State.ctx, h]
@[simp] theorem State.setCtx_ctx (s : State) (p : Part) : s.setCtx p (s.ctx p) = s := by
  simp only [State.setCtx, State.ctx, upd_look]
  rfl

@[simp] theorem State.setDPart_pending (s : State) (p : Part) (a : DomainPart) : (s.setDPart p a).pending = s.pending := rfl
@[simp] theorem State.setDPart_porst (s : State) (p : Part) (a : DomainPart) : (s.setDPart p a).porst = s.porst := rfl
@[simp] theorem State.setDPart_role (s : State) (p : Part) (a : DomainPart) : (s.setDPart p a).role = s.role := rfl
@[simp] theorem State.setDPart_now (s : State) (p : Part) (a : DomainPart) : (s.setDPart p a).now = s.now := rfl
@[simp] theorem State.setDPart_lp (s : State) (p : Part) (a : DomainPart) : (s.setDPart p a).lp = s.lp := rfl
@[simp] theorem State.setDPart_ref (s : State) (p : Part) (a : DomainPart) : (s.setDPart p a).ref = s.ref := rfl
@[simp] theorem State.setDPart_cf (s : State) (p : Part) (a : DomainPart) : (s.setDPart p a).cf = s.cf := rfl
@[simp] theorem State.setDPart_pse (s : State) (p : Part) (a : DomainPart) : (s.setDPart p a).pse = s.pse := rfl
@[simp] theorem State.setDPart_tu (s : State) (p : Part) (a : DomainPart) : (s.setDPart p a).tu = s.tu := rfl
@[simp] theorem State.setDPart_hu (s : State) (p : Part) (a : DomainPart) : (s.setDPart p a).hu = s.hu := rfl
@[simp] theorem State.setDPart_rc (s : State) (p : Part) (a : DomainPart) : (s.setDPart p a).rc = s.rc := rfl
@[simp] theorem State.setDPart_ma (s : State) (p : Part) (a : DomainPart) : (s.setDPart p a).ma = s.ma := rfl
@[simp] theorem State.setDPart_own (s : State) (p : Part) (a : DomainPart) : (s.setDPart p a).own = s.own := rfl
@[simp] theorem State.dpart_setDPart_self (s : State) (p : Part) (a : DomainPart) : (s.setDPart p a).dpart p = a := by
  simp [State.setDPart, State.dpart]
@[simp] theorem State.dpart_setDPart_ne (s : State) (p j : Part) (a : DomainPart) (h : p ≠ j) :
    (s.setDPart p a).dpart j = s.dpart j := by
  simp [State.setDPart, State.dpart, h]
@[simp] theorem State.setDPart_dpart (s : State) (p : Part) : s.setDPart p (s.dpart p) = s := by
  simp only [State.setDPart, State.dpart, upd_look]
  rfl

@[simp] theorem State.setOut_pending (s : State) (i : Fin 16) (a : OutLine) : (s.setOut i a).pending = s.pending := rfl
@[simp] theorem State.setOut_porst (s : State) (i : Fin 16) (a : OutLine) : (s.setOut i a).porst = s.porst := rfl
@[simp] theorem State.setOut_role (s : State) (i : Fin 16) (a : OutLine) : (s.setOut i a).role = s.role := rfl
@[simp] theorem State.setOut_now (s : State) (i : Fin 16) (a : OutLine) : (s.setOut i a).now = s.now := rfl
@[simp] theorem State.setOut_lp (s : State) (i : Fin 16) (a : OutLine) : (s.setOut i a).lp = s.lp := rfl
@[simp] theorem State.setOut_ref (s : State) (i : Fin 16) (a : OutLine) : (s.setOut i a).ref = s.ref := rfl
@[simp] theorem State.setOut_cf (s : State) (i : Fin 16) (a : OutLine) : (s.setOut i a).cf = s.cf := rfl
@[simp] theorem State.setOut_pse (s : State) (i : Fin 16) (a : OutLine) : (s.setOut i a).pse = s.pse := rfl
@[simp] theorem State.setOut_tu (s : State) (i : Fin 16) (a : OutLine) : (s.setOut i a).tu = s.tu := rfl
@[simp] theorem State.setOut_hu (s : State) (i : Fin 16) (a : OutLine) : (s.setOut i a).hu = s.hu := rfl
@[simp] theorem State.setOut_rc (s : State) (i : Fin 16) (a : OutLine) : (s.setOut i a).rc = s.rc := rfl
@[simp] theorem State.setOut_ma (s : State) (i : Fin 16) (a : OutLine) : (s.setOut i a).ma = s.ma := rfl
@[simp] theorem State.setOut_own (s : State) (i : Fin 16) (a : OutLine) : (s.setOut i a).own = s.own := rfl
@[simp] theorem State.out_setOut_self (s : State) (i : Fin 16) (a : OutLine) : (s.setOut i a).out i = a := by
  simp [State.setOut, State.out]
@[simp] theorem State.out_setOut_ne (s : State) (i j : Fin 16) (a : OutLine) (h : i ≠ j) :
    (s.setOut i a).out j = s.out j := by
  simp [State.setOut, State.out, h]
@[simp] theorem State.setOut_out (s : State) (i : Fin 16) : s.setOut i (s.out i) = s := by
  simp only [State.setOut, State.out, upd_look]
  rfl

@[simp] theorem State.setTrig_pending (s : State) (i : Fin 8) (a : TrigLine) : (s.setTrig i a).pending = s.pending := rfl
@[simp] theorem State.setTrig_porst (s : State) (i : Fin 8) (a : TrigLine) : (s.setTrig i a).porst = s.porst := rfl
@[simp] theorem State.setTrig_role (s : State) (i : Fin 8) (a : TrigLine) : (s.setTrig i a).role = s.role := rfl
@[simp] theorem State.setTrig_now (s : State) (i : Fin 8) (a : TrigLine) : (s.setTrig i a).now = s.now := rfl
@[simp] theorem State.setTrig_lp (s : State) (i : Fin 8) (a : TrigLine) : (s.setTrig i a).lp = s.lp := rfl
@[simp] theorem State.setTrig_ref (s : State) (i : Fin 8) (a : TrigLine) : (s.setTrig i a).ref = s.ref := rfl
@[simp] theorem State.setTrig_cf (s : State) (i : Fin 8) (a : TrigLine) : (s.setTrig i a).cf = s.cf := rfl
@[simp] theorem State.setTrig_pse (s : State) (i : Fin 8) (a : TrigLine) : (s.setTrig i a).pse = s.pse := rfl
@[simp] theorem State.setTrig_dg (s : State) (i : Fin 8) (a : TrigLine) : (s.setTrig i a).dg = s.dg := rfl
@[simp] theorem State.setTrig_hu (s : State) (i : Fin 8) (a : TrigLine) : (s.setTrig i a).hu = s.hu := rfl
@[simp] theorem State.setTrig_rc (s : State) (i : Fin 8) (a : TrigLine) : (s.setTrig i a).rc = s.rc := rfl
@[simp] theorem State.setTrig_ma (s : State) (i : Fin 8) (a : TrigLine) : (s.setTrig i a).ma = s.ma := rfl
@[simp] theorem State.setTrig_own (s : State) (i : Fin 8) (a : TrigLine) : (s.setTrig i a).own = s.own := rfl
@[simp] theorem State.trig_setTrig_self (s : State) (i : Fin 8) (a : TrigLine) : (s.setTrig i a).trig i = a := by
  simp [State.setTrig, State.trig]
@[simp] theorem State.trig_setTrig_ne (s : State) (i j : Fin 8) (a : TrigLine) (h : i ≠ j) :
    (s.setTrig i a).trig j = s.trig j := by
  simp [State.setTrig, State.trig, h]
@[simp] theorem State.setTrig_trig (s : State) (i : Fin 8) : s.setTrig i (s.trig i) = s := by
  simp only [State.setTrig, State.trig, upd_look]
  rfl

@[simp] theorem State.setStall_pending (s : State) (i : Fin 4) (a : StallLine) : (s.setStall i a).pending = s.pending := rfl
@[simp] theorem State.setStall_porst (s : State) (i : Fin 4) (a : StallLine) : (s.setStall i a).porst = s.porst := rfl
@[simp] theorem State.setStall_role (s : State) (i : Fin 4) (a : StallLine) : (s.setStall i a).role = s.role := rfl
@[simp] theorem State.setStall_now (s : State) (i : Fin 4) (a : StallLine) : (s.setStall i a).now = s.now := rfl
@[simp] theorem State.setStall_lp (s : State) (i : Fin 4) (a : StallLine) : (s.setStall i a).lp = s.lp := rfl
@[simp] theorem State.setStall_ref (s : State) (i : Fin 4) (a : StallLine) : (s.setStall i a).ref = s.ref := rfl
@[simp] theorem State.setStall_cf (s : State) (i : Fin 4) (a : StallLine) : (s.setStall i a).cf = s.cf := rfl
@[simp] theorem State.setStall_pse (s : State) (i : Fin 4) (a : StallLine) : (s.setStall i a).pse = s.pse := rfl
@[simp] theorem State.setStall_dg (s : State) (i : Fin 4) (a : StallLine) : (s.setStall i a).dg = s.dg := rfl
@[simp] theorem State.setStall_tu (s : State) (i : Fin 4) (a : StallLine) : (s.setStall i a).tu = s.tu := rfl
@[simp] theorem State.setStall_rc (s : State) (i : Fin 4) (a : StallLine) : (s.setStall i a).rc = s.rc := rfl
@[simp] theorem State.setStall_ma (s : State) (i : Fin 4) (a : StallLine) : (s.setStall i a).ma = s.ma := rfl
@[simp] theorem State.setStall_own (s : State) (i : Fin 4) (a : StallLine) : (s.setStall i a).own = s.own := rfl
@[simp] theorem State.stall_setStall_self (s : State) (i : Fin 4) (a : StallLine) : (s.setStall i a).stall i = a := by
  simp [State.setStall, State.stall]
@[simp] theorem State.stall_setStall_ne (s : State) (i j : Fin 4) (a : StallLine) (h : i ≠ j) :
    (s.setStall i a).stall j = s.stall j := by
  simp [State.setStall, State.stall, h]
@[simp] theorem State.setStall_stall (s : State) (i : Fin 4) : s.setStall i (s.stall i) = s := by
  simp only [State.setStall, State.stall, upd_look]
  rfl

@[simp] theorem State.setTable_pending (s : State) (p : Part) (a : HoldTable) : (s.setTable p a).pending = s.pending := rfl
@[simp] theorem State.setTable_porst (s : State) (p : Part) (a : HoldTable) : (s.setTable p a).porst = s.porst := rfl
@[simp] theorem State.setTable_role (s : State) (p : Part) (a : HoldTable) : (s.setTable p a).role = s.role := rfl
@[simp] theorem State.setTable_now (s : State) (p : Part) (a : HoldTable) : (s.setTable p a).now = s.now := rfl
@[simp] theorem State.setTable_lp (s : State) (p : Part) (a : HoldTable) : (s.setTable p a).lp = s.lp := rfl
@[simp] theorem State.setTable_ref (s : State) (p : Part) (a : HoldTable) : (s.setTable p a).ref = s.ref := rfl
@[simp] theorem State.setTable_cf (s : State) (p : Part) (a : HoldTable) : (s.setTable p a).cf = s.cf := rfl
@[simp] theorem State.setTable_pse (s : State) (p : Part) (a : HoldTable) : (s.setTable p a).pse = s.pse := rfl
@[simp] theorem State.setTable_dg (s : State) (p : Part) (a : HoldTable) : (s.setTable p a).dg = s.dg := rfl
@[simp] theorem State.setTable_tu (s : State) (p : Part) (a : HoldTable) : (s.setTable p a).tu = s.tu := rfl
@[simp] theorem State.setTable_rc (s : State) (p : Part) (a : HoldTable) : (s.setTable p a).rc = s.rc := rfl
@[simp] theorem State.setTable_ma (s : State) (p : Part) (a : HoldTable) : (s.setTable p a).ma = s.ma := rfl
@[simp] theorem State.setTable_own (s : State) (p : Part) (a : HoldTable) : (s.setTable p a).own = s.own := rfl
@[simp] theorem State.table_setTable_self (s : State) (p : Part) (a : HoldTable) : (s.setTable p a).table p = a := by
  simp [State.setTable, State.table]
@[simp] theorem State.table_setTable_ne (s : State) (p j : Part) (a : HoldTable) (h : p ≠ j) :
    (s.setTable p a).table j = s.table j := by
  simp [State.setTable, State.table, h]
@[simp] theorem State.setTable_table (s : State) (p : Part) : s.setTable p (s.table p) = s := by
  simp only [State.setTable, State.table, upd_look]
  rfl

@[simp] theorem State.setRootRec_pending (s : State) (p : Part) (a : RootRec) : (s.setRootRec p a).pending = s.pending := rfl
@[simp] theorem State.setRootRec_porst (s : State) (p : Part) (a : RootRec) : (s.setRootRec p a).porst = s.porst := rfl
@[simp] theorem State.setRootRec_role (s : State) (p : Part) (a : RootRec) : (s.setRootRec p a).role = s.role := rfl
@[simp] theorem State.setRootRec_now (s : State) (p : Part) (a : RootRec) : (s.setRootRec p a).now = s.now := rfl
@[simp] theorem State.setRootRec_lp (s : State) (p : Part) (a : RootRec) : (s.setRootRec p a).lp = s.lp := rfl
@[simp] theorem State.setRootRec_ref (s : State) (p : Part) (a : RootRec) : (s.setRootRec p a).ref = s.ref := rfl
@[simp] theorem State.setRootRec_cf (s : State) (p : Part) (a : RootRec) : (s.setRootRec p a).cf = s.cf := rfl
@[simp] theorem State.setRootRec_pse (s : State) (p : Part) (a : RootRec) : (s.setRootRec p a).pse = s.pse := rfl
@[simp] theorem State.setRootRec_dg (s : State) (p : Part) (a : RootRec) : (s.setRootRec p a).dg = s.dg := rfl
@[simp] theorem State.setRootRec_tu (s : State) (p : Part) (a : RootRec) : (s.setRootRec p a).tu = s.tu := rfl
@[simp] theorem State.setRootRec_hu (s : State) (p : Part) (a : RootRec) : (s.setRootRec p a).hu = s.hu := rfl
@[simp] theorem State.setRootRec_ma (s : State) (p : Part) (a : RootRec) : (s.setRootRec p a).ma = s.ma := rfl
@[simp] theorem State.setRootRec_own (s : State) (p : Part) (a : RootRec) : (s.setRootRec p a).own = s.own := rfl
@[simp] theorem State.rootRec_setRootRec_self (s : State) (p : Part) (a : RootRec) : (s.setRootRec p a).rootRec p = a := by
  simp [State.setRootRec, State.rootRec]
@[simp] theorem State.rootRec_setRootRec_ne (s : State) (p j : Part) (a : RootRec) (h : p ≠ j) :
    (s.setRootRec p a).rootRec j = s.rootRec j := by
  simp [State.setRootRec, State.rootRec, h]
@[simp] theorem State.setRootRec_rootRec (s : State) (p : Part) : s.setRootRec p (s.rootRec p) = s := by
  simp only [State.setRootRec, State.rootRec, upd_look]
  rfl

/-! A reader of one block sees nothing of a write to another -/

@[simp] theorem State.port_setNow (s : State) (x : PortId) (a : Nat) : (s.setNow a).port x = s.port x := by cases x <;> rfl
@[simp] theorem State.port_setRef (s : State) (x : PortId) (a : RefUnit) : (s.setRef a).port x = s.port x := by cases x <;> rfl
@[simp] theorem State.port_setCf (s : State) (x : PortId) (a : Forwarder) : (s.setCf a).port x = s.port x := by cases x <;> rfl
@[simp] theorem State.port_setPse (s : State) (x : PortId) (a : Vector Context 4) : (s.setPse a).port x = s.port x := by cases x <;> rfl
@[simp] theorem State.port_setDg (s : State) (x : PortId) (a : DomainGen) : (s.setDg a).port x = s.port x := by cases x <;> rfl
@[simp] theorem State.port_setTu (s : State) (x : PortId) (a : TriggerUnit) : (s.setTu a).port x = s.port x := by cases x <;> rfl
@[simp] theorem State.port_setHu (s : State) (x : PortId) (a : HoldUnit) : (s.setHu a).port x = s.port x := by cases x <;> rfl
@[simp] theorem State.port_setRc (s : State) (x : PortId) (a : Vector RootRec 4) : (s.setRc a).port x = s.port x := by cases x <;> rfl
@[simp] theorem State.port_setMa (s : State) (x : PortId) (a : Agent) : (s.setMa a).port x = s.port x := by cases x <;> rfl
@[simp] theorem State.port_setOwn (s : State) (x : PortId) (a : ModelOwn) : (s.setOwn a).port x = s.port x := by cases x <;> rfl

@[simp] theorem State.dlink_setNow (s : State) (n : Dn) (a : Nat) : (s.setNow a).dlink n = s.dlink n := rfl
@[simp] theorem State.dlink_setRef (s : State) (n : Dn) (a : RefUnit) : (s.setRef a).dlink n = s.dlink n := rfl
@[simp] theorem State.dlink_setCf (s : State) (n : Dn) (a : Forwarder) : (s.setCf a).dlink n = s.dlink n := rfl
@[simp] theorem State.dlink_setPse (s : State) (n : Dn) (a : Vector Context 4) : (s.setPse a).dlink n = s.dlink n := rfl
@[simp] theorem State.dlink_setDg (s : State) (n : Dn) (a : DomainGen) : (s.setDg a).dlink n = s.dlink n := rfl
@[simp] theorem State.dlink_setTu (s : State) (n : Dn) (a : TriggerUnit) : (s.setTu a).dlink n = s.dlink n := rfl
@[simp] theorem State.dlink_setHu (s : State) (n : Dn) (a : HoldUnit) : (s.setHu a).dlink n = s.dlink n := rfl
@[simp] theorem State.dlink_setRc (s : State) (n : Dn) (a : Vector RootRec 4) : (s.setRc a).dlink n = s.dlink n := rfl
@[simp] theorem State.dlink_setMa (s : State) (n : Dn) (a : Agent) : (s.setMa a).dlink n = s.dlink n := rfl
@[simp] theorem State.dlink_setOwn (s : State) (n : Dn) (a : ModelOwn) : (s.setOwn a).dlink n = s.dlink n := rfl

@[simp] theorem State.route_setNow (s : State) (p : Part) (a : Nat) : (s.setNow a).route p = s.route p := rfl
@[simp] theorem State.route_setLp (s : State) (p : Part) (a : LinkPorts) : (s.setLp a).route p = s.route p := rfl
@[simp] theorem State.route_setRef (s : State) (p : Part) (a : RefUnit) : (s.setRef a).route p = s.route p := rfl
@[simp] theorem State.route_setPse (s : State) (p : Part) (a : Vector Context 4) : (s.setPse a).route p = s.route p := rfl
@[simp] theorem State.route_setDg (s : State) (p : Part) (a : DomainGen) : (s.setDg a).route p = s.route p := rfl
@[simp] theorem State.route_setTu (s : State) (p : Part) (a : TriggerUnit) : (s.setTu a).route p = s.route p := rfl
@[simp] theorem State.route_setHu (s : State) (p : Part) (a : HoldUnit) : (s.setHu a).route p = s.route p := rfl
@[simp] theorem State.route_setRc (s : State) (p : Part) (a : Vector RootRec 4) : (s.setRc a).route p = s.route p := rfl
@[simp] theorem State.route_setMa (s : State) (p : Part) (a : Agent) : (s.setMa a).route p = s.route p := rfl
@[simp] theorem State.route_setOwn (s : State) (p : Part) (a : ModelOwn) : (s.setOwn a).route p = s.route p := rfl

@[simp] theorem State.egress_setNow (s : State) (n : Dn) (a : Nat) : (s.setNow a).egress n = s.egress n := rfl
@[simp] theorem State.egress_setLp (s : State) (n : Dn) (a : LinkPorts) : (s.setLp a).egress n = s.egress n := rfl
@[simp] theorem State.egress_setRef (s : State) (n : Dn) (a : RefUnit) : (s.setRef a).egress n = s.egress n := rfl
@[simp] theorem State.egress_setPse (s : State) (n : Dn) (a : Vector Context 4) : (s.setPse a).egress n = s.egress n := rfl
@[simp] theorem State.egress_setDg (s : State) (n : Dn) (a : DomainGen) : (s.setDg a).egress n = s.egress n := rfl
@[simp] theorem State.egress_setTu (s : State) (n : Dn) (a : TriggerUnit) : (s.setTu a).egress n = s.egress n := rfl
@[simp] theorem State.egress_setHu (s : State) (n : Dn) (a : HoldUnit) : (s.setHu a).egress n = s.egress n := rfl
@[simp] theorem State.egress_setRc (s : State) (n : Dn) (a : Vector RootRec 4) : (s.setRc a).egress n = s.egress n := rfl
@[simp] theorem State.egress_setMa (s : State) (n : Dn) (a : Agent) : (s.setMa a).egress n = s.egress n := rfl
@[simp] theorem State.egress_setOwn (s : State) (n : Dn) (a : ModelOwn) : (s.setOwn a).egress n = s.egress n := rfl

@[simp] theorem State.slots_setNow (s : State) (p : Part) (a : Nat) : (s.setNow a).slots p = s.slots p := rfl
@[simp] theorem State.slots_setLp (s : State) (p : Part) (a : LinkPorts) : (s.setLp a).slots p = s.slots p := rfl
@[simp] theorem State.slots_setRef (s : State) (p : Part) (a : RefUnit) : (s.setRef a).slots p = s.slots p := rfl
@[simp] theorem State.slots_setPse (s : State) (p : Part) (a : Vector Context 4) : (s.setPse a).slots p = s.slots p := rfl
@[simp] theorem State.slots_setDg (s : State) (p : Part) (a : DomainGen) : (s.setDg a).slots p = s.slots p := rfl
@[simp] theorem State.slots_setTu (s : State) (p : Part) (a : TriggerUnit) : (s.setTu a).slots p = s.slots p := rfl
@[simp] theorem State.slots_setHu (s : State) (p : Part) (a : HoldUnit) : (s.setHu a).slots p = s.slots p := rfl
@[simp] theorem State.slots_setRc (s : State) (p : Part) (a : Vector RootRec 4) : (s.setRc a).slots p = s.slots p := rfl
@[simp] theorem State.slots_setMa (s : State) (p : Part) (a : Agent) : (s.setMa a).slots p = s.slots p := rfl
@[simp] theorem State.slots_setOwn (s : State) (p : Part) (a : ModelOwn) : (s.setOwn a).slots p = s.slots p := rfl

@[simp] theorem State.ctx_setNow (s : State) (p : Part) (a : Nat) : (s.setNow a).ctx p = s.ctx p := rfl
@[simp] theorem State.ctx_setLp (s : State) (p : Part) (a : LinkPorts) : (s.setLp a).ctx p = s.ctx p := rfl
@[simp] theorem State.ctx_setRef (s : State) (p : Part) (a : RefUnit) : (s.setRef a).ctx p = s.ctx p := rfl
@[simp] theorem State.ctx_setCf (s : State) (p : Part) (a : Forwarder) : (s.setCf a).ctx p = s.ctx p := rfl
@[simp] theorem State.ctx_setDg (s : State) (p : Part) (a : DomainGen) : (s.setDg a).ctx p = s.ctx p := rfl
@[simp] theorem State.ctx_setTu (s : State) (p : Part) (a : TriggerUnit) : (s.setTu a).ctx p = s.ctx p := rfl
@[simp] theorem State.ctx_setHu (s : State) (p : Part) (a : HoldUnit) : (s.setHu a).ctx p = s.ctx p := rfl
@[simp] theorem State.ctx_setRc (s : State) (p : Part) (a : Vector RootRec 4) : (s.setRc a).ctx p = s.ctx p := rfl
@[simp] theorem State.ctx_setMa (s : State) (p : Part) (a : Agent) : (s.setMa a).ctx p = s.ctx p := rfl
@[simp] theorem State.ctx_setOwn (s : State) (p : Part) (a : ModelOwn) : (s.setOwn a).ctx p = s.ctx p := rfl

@[simp] theorem State.dpart_setNow (s : State) (p : Part) (a : Nat) : (s.setNow a).dpart p = s.dpart p := rfl
@[simp] theorem State.dpart_setLp (s : State) (p : Part) (a : LinkPorts) : (s.setLp a).dpart p = s.dpart p := rfl
@[simp] theorem State.dpart_setRef (s : State) (p : Part) (a : RefUnit) : (s.setRef a).dpart p = s.dpart p := rfl
@[simp] theorem State.dpart_setCf (s : State) (p : Part) (a : Forwarder) : (s.setCf a).dpart p = s.dpart p := rfl
@[simp] theorem State.dpart_setPse (s : State) (p : Part) (a : Vector Context 4) : (s.setPse a).dpart p = s.dpart p := rfl
@[simp] theorem State.dpart_setTu (s : State) (p : Part) (a : TriggerUnit) : (s.setTu a).dpart p = s.dpart p := rfl
@[simp] theorem State.dpart_setHu (s : State) (p : Part) (a : HoldUnit) : (s.setHu a).dpart p = s.dpart p := rfl
@[simp] theorem State.dpart_setRc (s : State) (p : Part) (a : Vector RootRec 4) : (s.setRc a).dpart p = s.dpart p := rfl
@[simp] theorem State.dpart_setMa (s : State) (p : Part) (a : Agent) : (s.setMa a).dpart p = s.dpart p := rfl
@[simp] theorem State.dpart_setOwn (s : State) (p : Part) (a : ModelOwn) : (s.setOwn a).dpart p = s.dpart p := rfl

@[simp] theorem State.out_setNow (s : State) (i : Fin 16) (a : Nat) : (s.setNow a).out i = s.out i := rfl
@[simp] theorem State.out_setLp (s : State) (i : Fin 16) (a : LinkPorts) : (s.setLp a).out i = s.out i := rfl
@[simp] theorem State.out_setRef (s : State) (i : Fin 16) (a : RefUnit) : (s.setRef a).out i = s.out i := rfl
@[simp] theorem State.out_setCf (s : State) (i : Fin 16) (a : Forwarder) : (s.setCf a).out i = s.out i := rfl
@[simp] theorem State.out_setPse (s : State) (i : Fin 16) (a : Vector Context 4) : (s.setPse a).out i = s.out i := rfl
@[simp] theorem State.out_setTu (s : State) (i : Fin 16) (a : TriggerUnit) : (s.setTu a).out i = s.out i := rfl
@[simp] theorem State.out_setHu (s : State) (i : Fin 16) (a : HoldUnit) : (s.setHu a).out i = s.out i := rfl
@[simp] theorem State.out_setRc (s : State) (i : Fin 16) (a : Vector RootRec 4) : (s.setRc a).out i = s.out i := rfl
@[simp] theorem State.out_setMa (s : State) (i : Fin 16) (a : Agent) : (s.setMa a).out i = s.out i := rfl
@[simp] theorem State.out_setOwn (s : State) (i : Fin 16) (a : ModelOwn) : (s.setOwn a).out i = s.out i := rfl

@[simp] theorem State.trig_setNow (s : State) (i : Fin 8) (a : Nat) : (s.setNow a).trig i = s.trig i := rfl
@[simp] theorem State.trig_setLp (s : State) (i : Fin 8) (a : LinkPorts) : (s.setLp a).trig i = s.trig i := rfl
@[simp] theorem State.trig_setRef (s : State) (i : Fin 8) (a : RefUnit) : (s.setRef a).trig i = s.trig i := rfl
@[simp] theorem State.trig_setCf (s : State) (i : Fin 8) (a : Forwarder) : (s.setCf a).trig i = s.trig i := rfl
@[simp] theorem State.trig_setPse (s : State) (i : Fin 8) (a : Vector Context 4) : (s.setPse a).trig i = s.trig i := rfl
@[simp] theorem State.trig_setDg (s : State) (i : Fin 8) (a : DomainGen) : (s.setDg a).trig i = s.trig i := rfl
@[simp] theorem State.trig_setHu (s : State) (i : Fin 8) (a : HoldUnit) : (s.setHu a).trig i = s.trig i := rfl
@[simp] theorem State.trig_setRc (s : State) (i : Fin 8) (a : Vector RootRec 4) : (s.setRc a).trig i = s.trig i := rfl
@[simp] theorem State.trig_setMa (s : State) (i : Fin 8) (a : Agent) : (s.setMa a).trig i = s.trig i := rfl
@[simp] theorem State.trig_setOwn (s : State) (i : Fin 8) (a : ModelOwn) : (s.setOwn a).trig i = s.trig i := rfl

@[simp] theorem State.stall_setNow (s : State) (i : Fin 4) (a : Nat) : (s.setNow a).stall i = s.stall i := rfl
@[simp] theorem State.stall_setLp (s : State) (i : Fin 4) (a : LinkPorts) : (s.setLp a).stall i = s.stall i := rfl
@[simp] theorem State.stall_setRef (s : State) (i : Fin 4) (a : RefUnit) : (s.setRef a).stall i = s.stall i := rfl
@[simp] theorem State.stall_setCf (s : State) (i : Fin 4) (a : Forwarder) : (s.setCf a).stall i = s.stall i := rfl
@[simp] theorem State.stall_setPse (s : State) (i : Fin 4) (a : Vector Context 4) : (s.setPse a).stall i = s.stall i := rfl
@[simp] theorem State.stall_setDg (s : State) (i : Fin 4) (a : DomainGen) : (s.setDg a).stall i = s.stall i := rfl
@[simp] theorem State.stall_setTu (s : State) (i : Fin 4) (a : TriggerUnit) : (s.setTu a).stall i = s.stall i := rfl
@[simp] theorem State.stall_setRc (s : State) (i : Fin 4) (a : Vector RootRec 4) : (s.setRc a).stall i = s.stall i := rfl
@[simp] theorem State.stall_setMa (s : State) (i : Fin 4) (a : Agent) : (s.setMa a).stall i = s.stall i := rfl
@[simp] theorem State.stall_setOwn (s : State) (i : Fin 4) (a : ModelOwn) : (s.setOwn a).stall i = s.stall i := rfl

@[simp] theorem State.table_setNow (s : State) (p : Part) (a : Nat) : (s.setNow a).table p = s.table p := rfl
@[simp] theorem State.table_setLp (s : State) (p : Part) (a : LinkPorts) : (s.setLp a).table p = s.table p := rfl
@[simp] theorem State.table_setRef (s : State) (p : Part) (a : RefUnit) : (s.setRef a).table p = s.table p := rfl
@[simp] theorem State.table_setCf (s : State) (p : Part) (a : Forwarder) : (s.setCf a).table p = s.table p := rfl
@[simp] theorem State.table_setPse (s : State) (p : Part) (a : Vector Context 4) : (s.setPse a).table p = s.table p := rfl
@[simp] theorem State.table_setDg (s : State) (p : Part) (a : DomainGen) : (s.setDg a).table p = s.table p := rfl
@[simp] theorem State.table_setTu (s : State) (p : Part) (a : TriggerUnit) : (s.setTu a).table p = s.table p := rfl
@[simp] theorem State.table_setRc (s : State) (p : Part) (a : Vector RootRec 4) : (s.setRc a).table p = s.table p := rfl
@[simp] theorem State.table_setMa (s : State) (p : Part) (a : Agent) : (s.setMa a).table p = s.table p := rfl
@[simp] theorem State.table_setOwn (s : State) (p : Part) (a : ModelOwn) : (s.setOwn a).table p = s.table p := rfl

@[simp] theorem State.rootRec_setNow (s : State) (p : Part) (a : Nat) : (s.setNow a).rootRec p = s.rootRec p := rfl
@[simp] theorem State.rootRec_setLp (s : State) (p : Part) (a : LinkPorts) : (s.setLp a).rootRec p = s.rootRec p := rfl
@[simp] theorem State.rootRec_setRef (s : State) (p : Part) (a : RefUnit) : (s.setRef a).rootRec p = s.rootRec p := rfl
@[simp] theorem State.rootRec_setCf (s : State) (p : Part) (a : Forwarder) : (s.setCf a).rootRec p = s.rootRec p := rfl
@[simp] theorem State.rootRec_setPse (s : State) (p : Part) (a : Vector Context 4) : (s.setPse a).rootRec p = s.rootRec p := rfl
@[simp] theorem State.rootRec_setDg (s : State) (p : Part) (a : DomainGen) : (s.setDg a).rootRec p = s.rootRec p := rfl
@[simp] theorem State.rootRec_setTu (s : State) (p : Part) (a : TriggerUnit) : (s.setTu a).rootRec p = s.rootRec p := rfl
@[simp] theorem State.rootRec_setHu (s : State) (p : Part) (a : HoldUnit) : (s.setHu a).rootRec p = s.rootRec p := rfl
@[simp] theorem State.rootRec_setMa (s : State) (p : Part) (a : Agent) : (s.setMa a).rootRec p = s.rootRec p := rfl
@[simp] theorem State.rootRec_setOwn (s : State) (p : Part) (a : ModelOwn) : (s.setOwn a).rootRec p = s.rootRec p := rfl

/-! Readers of one block after a write to an entry of it or of another -/

@[simp] theorem State.port_setDLink (s : State) (x : PortId) (k : Dn) (a : DLink) :
    (s.setDLink k a).port x = s.port x := by
  cases x <;> rfl
@[simp] theorem State.port_setRoute (s : State) (x : PortId) (k : Part) (a : RouteEntry) :
    (s.setRoute k a).port x = s.port x := by
  cases x <;> rfl
@[simp] theorem State.port_setEgress (s : State) (x : PortId) (k : Dn) (a : Egress) :
    (s.setEgress k a).port x = s.port x := by
  cases x <;> rfl
@[simp] theorem State.port_setSlots (s : State) (x : PortId) (k : Part) (a : Slots) :
    (s.setSlots k a).port x = s.port x := by
  cases x <;> rfl
@[simp] theorem State.port_setCtx (s : State) (x : PortId) (k : Part) (a : Context) :
    (s.setCtx k a).port x = s.port x := by
  cases x <;> rfl
@[simp] theorem State.port_setDPart (s : State) (x : PortId) (k : Part) (a : DomainPart) :
    (s.setDPart k a).port x = s.port x := by
  cases x <;> rfl
@[simp] theorem State.port_setOut (s : State) (x : PortId) (k : Fin 16) (a : OutLine) :
    (s.setOut k a).port x = s.port x := by
  cases x <;> rfl
@[simp] theorem State.port_setTrig (s : State) (x : PortId) (k : Fin 8) (a : TrigLine) :
    (s.setTrig k a).port x = s.port x := by
  cases x <;> rfl
@[simp] theorem State.port_setStall (s : State) (x : PortId) (k : Fin 4) (a : StallLine) :
    (s.setStall k a).port x = s.port x := by
  cases x <;> rfl
@[simp] theorem State.port_setTable (s : State) (x : PortId) (k : Part) (a : HoldTable) :
    (s.setTable k a).port x = s.port x := by
  cases x <;> rfl
@[simp] theorem State.port_setRootRec (s : State) (x : PortId) (k : Part) (a : RootRec) :
    (s.setRootRec k a).port x = s.port x := by
  cases x <;> rfl

@[simp] theorem State.dlink_setPort (s : State) (n : Dn) (k : PortId) (a : Port) :
    (s.setPort k a).dlink n = s.dlink n := by
  cases k <;> rfl
@[simp] theorem State.dlink_setRoute (s : State) (n : Dn) (k : Part) (a : RouteEntry) :
    (s.setRoute k a).dlink n = s.dlink n := rfl
@[simp] theorem State.dlink_setEgress (s : State) (n : Dn) (k : Dn) (a : Egress) :
    (s.setEgress k a).dlink n = s.dlink n := rfl
@[simp] theorem State.dlink_setSlots (s : State) (n : Dn) (k : Part) (a : Slots) :
    (s.setSlots k a).dlink n = s.dlink n := rfl
@[simp] theorem State.dlink_setCtx (s : State) (n : Dn) (k : Part) (a : Context) :
    (s.setCtx k a).dlink n = s.dlink n := rfl
@[simp] theorem State.dlink_setDPart (s : State) (n : Dn) (k : Part) (a : DomainPart) :
    (s.setDPart k a).dlink n = s.dlink n := rfl
@[simp] theorem State.dlink_setOut (s : State) (n : Dn) (k : Fin 16) (a : OutLine) :
    (s.setOut k a).dlink n = s.dlink n := rfl
@[simp] theorem State.dlink_setTrig (s : State) (n : Dn) (k : Fin 8) (a : TrigLine) :
    (s.setTrig k a).dlink n = s.dlink n := rfl
@[simp] theorem State.dlink_setStall (s : State) (n : Dn) (k : Fin 4) (a : StallLine) :
    (s.setStall k a).dlink n = s.dlink n := rfl
@[simp] theorem State.dlink_setTable (s : State) (n : Dn) (k : Part) (a : HoldTable) :
    (s.setTable k a).dlink n = s.dlink n := rfl
@[simp] theorem State.dlink_setRootRec (s : State) (n : Dn) (k : Part) (a : RootRec) :
    (s.setRootRec k a).dlink n = s.dlink n := rfl

@[simp] theorem State.route_setPort (s : State) (p : Part) (k : PortId) (a : Port) :
    (s.setPort k a).route p = s.route p := by
  cases k <;> rfl
@[simp] theorem State.route_setDLink (s : State) (p : Part) (k : Dn) (a : DLink) :
    (s.setDLink k a).route p = s.route p := rfl
@[simp] theorem State.route_setEgress (s : State) (p : Part) (k : Dn) (a : Egress) :
    (s.setEgress k a).route p = s.route p := rfl
@[simp] theorem State.route_setSlots (s : State) (p : Part) (k : Part) (a : Slots) :
    (s.setSlots k a).route p = s.route p := rfl
@[simp] theorem State.route_setCtx (s : State) (p : Part) (k : Part) (a : Context) :
    (s.setCtx k a).route p = s.route p := rfl
@[simp] theorem State.route_setDPart (s : State) (p : Part) (k : Part) (a : DomainPart) :
    (s.setDPart k a).route p = s.route p := rfl
@[simp] theorem State.route_setOut (s : State) (p : Part) (k : Fin 16) (a : OutLine) :
    (s.setOut k a).route p = s.route p := rfl
@[simp] theorem State.route_setTrig (s : State) (p : Part) (k : Fin 8) (a : TrigLine) :
    (s.setTrig k a).route p = s.route p := rfl
@[simp] theorem State.route_setStall (s : State) (p : Part) (k : Fin 4) (a : StallLine) :
    (s.setStall k a).route p = s.route p := rfl
@[simp] theorem State.route_setTable (s : State) (p : Part) (k : Part) (a : HoldTable) :
    (s.setTable k a).route p = s.route p := rfl
@[simp] theorem State.route_setRootRec (s : State) (p : Part) (k : Part) (a : RootRec) :
    (s.setRootRec k a).route p = s.route p := rfl

@[simp] theorem State.egress_setPort (s : State) (n : Dn) (k : PortId) (a : Port) :
    (s.setPort k a).egress n = s.egress n := by
  cases k <;> rfl
@[simp] theorem State.egress_setDLink (s : State) (n : Dn) (k : Dn) (a : DLink) :
    (s.setDLink k a).egress n = s.egress n := rfl
@[simp] theorem State.egress_setRoute (s : State) (n : Dn) (k : Part) (a : RouteEntry) :
    (s.setRoute k a).egress n = s.egress n := rfl
@[simp] theorem State.egress_setSlots (s : State) (n : Dn) (k : Part) (a : Slots) :
    (s.setSlots k a).egress n = s.egress n := rfl
@[simp] theorem State.egress_setCtx (s : State) (n : Dn) (k : Part) (a : Context) :
    (s.setCtx k a).egress n = s.egress n := rfl
@[simp] theorem State.egress_setDPart (s : State) (n : Dn) (k : Part) (a : DomainPart) :
    (s.setDPart k a).egress n = s.egress n := rfl
@[simp] theorem State.egress_setOut (s : State) (n : Dn) (k : Fin 16) (a : OutLine) :
    (s.setOut k a).egress n = s.egress n := rfl
@[simp] theorem State.egress_setTrig (s : State) (n : Dn) (k : Fin 8) (a : TrigLine) :
    (s.setTrig k a).egress n = s.egress n := rfl
@[simp] theorem State.egress_setStall (s : State) (n : Dn) (k : Fin 4) (a : StallLine) :
    (s.setStall k a).egress n = s.egress n := rfl
@[simp] theorem State.egress_setTable (s : State) (n : Dn) (k : Part) (a : HoldTable) :
    (s.setTable k a).egress n = s.egress n := rfl
@[simp] theorem State.egress_setRootRec (s : State) (n : Dn) (k : Part) (a : RootRec) :
    (s.setRootRec k a).egress n = s.egress n := rfl

@[simp] theorem State.slots_setPort (s : State) (p : Part) (k : PortId) (a : Port) :
    (s.setPort k a).slots p = s.slots p := by
  cases k <;> rfl
@[simp] theorem State.slots_setDLink (s : State) (p : Part) (k : Dn) (a : DLink) :
    (s.setDLink k a).slots p = s.slots p := rfl
@[simp] theorem State.slots_setRoute (s : State) (p : Part) (k : Part) (a : RouteEntry) :
    (s.setRoute k a).slots p = s.slots p := rfl
@[simp] theorem State.slots_setEgress (s : State) (p : Part) (k : Dn) (a : Egress) :
    (s.setEgress k a).slots p = s.slots p := rfl
@[simp] theorem State.slots_setCtx (s : State) (p : Part) (k : Part) (a : Context) :
    (s.setCtx k a).slots p = s.slots p := rfl
@[simp] theorem State.slots_setDPart (s : State) (p : Part) (k : Part) (a : DomainPart) :
    (s.setDPart k a).slots p = s.slots p := rfl
@[simp] theorem State.slots_setOut (s : State) (p : Part) (k : Fin 16) (a : OutLine) :
    (s.setOut k a).slots p = s.slots p := rfl
@[simp] theorem State.slots_setTrig (s : State) (p : Part) (k : Fin 8) (a : TrigLine) :
    (s.setTrig k a).slots p = s.slots p := rfl
@[simp] theorem State.slots_setStall (s : State) (p : Part) (k : Fin 4) (a : StallLine) :
    (s.setStall k a).slots p = s.slots p := rfl
@[simp] theorem State.slots_setTable (s : State) (p : Part) (k : Part) (a : HoldTable) :
    (s.setTable k a).slots p = s.slots p := rfl
@[simp] theorem State.slots_setRootRec (s : State) (p : Part) (k : Part) (a : RootRec) :
    (s.setRootRec k a).slots p = s.slots p := rfl

@[simp] theorem State.ctx_setPort (s : State) (p : Part) (k : PortId) (a : Port) :
    (s.setPort k a).ctx p = s.ctx p := by
  cases k <;> rfl
@[simp] theorem State.ctx_setDLink (s : State) (p : Part) (k : Dn) (a : DLink) :
    (s.setDLink k a).ctx p = s.ctx p := rfl
@[simp] theorem State.ctx_setRoute (s : State) (p : Part) (k : Part) (a : RouteEntry) :
    (s.setRoute k a).ctx p = s.ctx p := rfl
@[simp] theorem State.ctx_setEgress (s : State) (p : Part) (k : Dn) (a : Egress) :
    (s.setEgress k a).ctx p = s.ctx p := rfl
@[simp] theorem State.ctx_setSlots (s : State) (p : Part) (k : Part) (a : Slots) :
    (s.setSlots k a).ctx p = s.ctx p := rfl
@[simp] theorem State.ctx_setDPart (s : State) (p : Part) (k : Part) (a : DomainPart) :
    (s.setDPart k a).ctx p = s.ctx p := rfl
@[simp] theorem State.ctx_setOut (s : State) (p : Part) (k : Fin 16) (a : OutLine) :
    (s.setOut k a).ctx p = s.ctx p := rfl
@[simp] theorem State.ctx_setTrig (s : State) (p : Part) (k : Fin 8) (a : TrigLine) :
    (s.setTrig k a).ctx p = s.ctx p := rfl
@[simp] theorem State.ctx_setStall (s : State) (p : Part) (k : Fin 4) (a : StallLine) :
    (s.setStall k a).ctx p = s.ctx p := rfl
@[simp] theorem State.ctx_setTable (s : State) (p : Part) (k : Part) (a : HoldTable) :
    (s.setTable k a).ctx p = s.ctx p := rfl
@[simp] theorem State.ctx_setRootRec (s : State) (p : Part) (k : Part) (a : RootRec) :
    (s.setRootRec k a).ctx p = s.ctx p := rfl

@[simp] theorem State.dpart_setPort (s : State) (p : Part) (k : PortId) (a : Port) :
    (s.setPort k a).dpart p = s.dpart p := by
  cases k <;> rfl
@[simp] theorem State.dpart_setDLink (s : State) (p : Part) (k : Dn) (a : DLink) :
    (s.setDLink k a).dpart p = s.dpart p := rfl
@[simp] theorem State.dpart_setRoute (s : State) (p : Part) (k : Part) (a : RouteEntry) :
    (s.setRoute k a).dpart p = s.dpart p := rfl
@[simp] theorem State.dpart_setEgress (s : State) (p : Part) (k : Dn) (a : Egress) :
    (s.setEgress k a).dpart p = s.dpart p := rfl
@[simp] theorem State.dpart_setSlots (s : State) (p : Part) (k : Part) (a : Slots) :
    (s.setSlots k a).dpart p = s.dpart p := rfl
@[simp] theorem State.dpart_setCtx (s : State) (p : Part) (k : Part) (a : Context) :
    (s.setCtx k a).dpart p = s.dpart p := rfl
@[simp] theorem State.dpart_setOut (s : State) (p : Part) (k : Fin 16) (a : OutLine) :
    (s.setOut k a).dpart p = s.dpart p := rfl
@[simp] theorem State.dpart_setTrig (s : State) (p : Part) (k : Fin 8) (a : TrigLine) :
    (s.setTrig k a).dpart p = s.dpart p := rfl
@[simp] theorem State.dpart_setStall (s : State) (p : Part) (k : Fin 4) (a : StallLine) :
    (s.setStall k a).dpart p = s.dpart p := rfl
@[simp] theorem State.dpart_setTable (s : State) (p : Part) (k : Part) (a : HoldTable) :
    (s.setTable k a).dpart p = s.dpart p := rfl
@[simp] theorem State.dpart_setRootRec (s : State) (p : Part) (k : Part) (a : RootRec) :
    (s.setRootRec k a).dpart p = s.dpart p := rfl

@[simp] theorem State.out_setPort (s : State) (i : Fin 16) (k : PortId) (a : Port) :
    (s.setPort k a).out i = s.out i := by
  cases k <;> rfl
@[simp] theorem State.out_setDLink (s : State) (i : Fin 16) (k : Dn) (a : DLink) :
    (s.setDLink k a).out i = s.out i := rfl
@[simp] theorem State.out_setRoute (s : State) (i : Fin 16) (k : Part) (a : RouteEntry) :
    (s.setRoute k a).out i = s.out i := rfl
@[simp] theorem State.out_setEgress (s : State) (i : Fin 16) (k : Dn) (a : Egress) :
    (s.setEgress k a).out i = s.out i := rfl
@[simp] theorem State.out_setSlots (s : State) (i : Fin 16) (k : Part) (a : Slots) :
    (s.setSlots k a).out i = s.out i := rfl
@[simp] theorem State.out_setCtx (s : State) (i : Fin 16) (k : Part) (a : Context) :
    (s.setCtx k a).out i = s.out i := rfl
@[simp] theorem State.out_setDPart (s : State) (i : Fin 16) (k : Part) (a : DomainPart) :
    (s.setDPart k a).out i = s.out i := rfl
@[simp] theorem State.out_setTrig (s : State) (i : Fin 16) (k : Fin 8) (a : TrigLine) :
    (s.setTrig k a).out i = s.out i := rfl
@[simp] theorem State.out_setStall (s : State) (i : Fin 16) (k : Fin 4) (a : StallLine) :
    (s.setStall k a).out i = s.out i := rfl
@[simp] theorem State.out_setTable (s : State) (i : Fin 16) (k : Part) (a : HoldTable) :
    (s.setTable k a).out i = s.out i := rfl
@[simp] theorem State.out_setRootRec (s : State) (i : Fin 16) (k : Part) (a : RootRec) :
    (s.setRootRec k a).out i = s.out i := rfl

@[simp] theorem State.trig_setPort (s : State) (i : Fin 8) (k : PortId) (a : Port) :
    (s.setPort k a).trig i = s.trig i := by
  cases k <;> rfl
@[simp] theorem State.trig_setDLink (s : State) (i : Fin 8) (k : Dn) (a : DLink) :
    (s.setDLink k a).trig i = s.trig i := rfl
@[simp] theorem State.trig_setRoute (s : State) (i : Fin 8) (k : Part) (a : RouteEntry) :
    (s.setRoute k a).trig i = s.trig i := rfl
@[simp] theorem State.trig_setEgress (s : State) (i : Fin 8) (k : Dn) (a : Egress) :
    (s.setEgress k a).trig i = s.trig i := rfl
@[simp] theorem State.trig_setSlots (s : State) (i : Fin 8) (k : Part) (a : Slots) :
    (s.setSlots k a).trig i = s.trig i := rfl
@[simp] theorem State.trig_setCtx (s : State) (i : Fin 8) (k : Part) (a : Context) :
    (s.setCtx k a).trig i = s.trig i := rfl
@[simp] theorem State.trig_setDPart (s : State) (i : Fin 8) (k : Part) (a : DomainPart) :
    (s.setDPart k a).trig i = s.trig i := rfl
@[simp] theorem State.trig_setOut (s : State) (i : Fin 8) (k : Fin 16) (a : OutLine) :
    (s.setOut k a).trig i = s.trig i := rfl
@[simp] theorem State.trig_setStall (s : State) (i : Fin 8) (k : Fin 4) (a : StallLine) :
    (s.setStall k a).trig i = s.trig i := rfl
@[simp] theorem State.trig_setTable (s : State) (i : Fin 8) (k : Part) (a : HoldTable) :
    (s.setTable k a).trig i = s.trig i := rfl
@[simp] theorem State.trig_setRootRec (s : State) (i : Fin 8) (k : Part) (a : RootRec) :
    (s.setRootRec k a).trig i = s.trig i := rfl

@[simp] theorem State.stall_setPort (s : State) (i : Fin 4) (k : PortId) (a : Port) :
    (s.setPort k a).stall i = s.stall i := by
  cases k <;> rfl
@[simp] theorem State.stall_setDLink (s : State) (i : Fin 4) (k : Dn) (a : DLink) :
    (s.setDLink k a).stall i = s.stall i := rfl
@[simp] theorem State.stall_setRoute (s : State) (i : Fin 4) (k : Part) (a : RouteEntry) :
    (s.setRoute k a).stall i = s.stall i := rfl
@[simp] theorem State.stall_setEgress (s : State) (i : Fin 4) (k : Dn) (a : Egress) :
    (s.setEgress k a).stall i = s.stall i := rfl
@[simp] theorem State.stall_setSlots (s : State) (i : Fin 4) (k : Part) (a : Slots) :
    (s.setSlots k a).stall i = s.stall i := rfl
@[simp] theorem State.stall_setCtx (s : State) (i : Fin 4) (k : Part) (a : Context) :
    (s.setCtx k a).stall i = s.stall i := rfl
@[simp] theorem State.stall_setDPart (s : State) (i : Fin 4) (k : Part) (a : DomainPart) :
    (s.setDPart k a).stall i = s.stall i := rfl
@[simp] theorem State.stall_setOut (s : State) (i : Fin 4) (k : Fin 16) (a : OutLine) :
    (s.setOut k a).stall i = s.stall i := rfl
@[simp] theorem State.stall_setTrig (s : State) (i : Fin 4) (k : Fin 8) (a : TrigLine) :
    (s.setTrig k a).stall i = s.stall i := rfl
@[simp] theorem State.stall_setTable (s : State) (i : Fin 4) (k : Part) (a : HoldTable) :
    (s.setTable k a).stall i = s.stall i := rfl
@[simp] theorem State.stall_setRootRec (s : State) (i : Fin 4) (k : Part) (a : RootRec) :
    (s.setRootRec k a).stall i = s.stall i := rfl

@[simp] theorem State.table_setPort (s : State) (p : Part) (k : PortId) (a : Port) :
    (s.setPort k a).table p = s.table p := by
  cases k <;> rfl
@[simp] theorem State.table_setDLink (s : State) (p : Part) (k : Dn) (a : DLink) :
    (s.setDLink k a).table p = s.table p := rfl
@[simp] theorem State.table_setRoute (s : State) (p : Part) (k : Part) (a : RouteEntry) :
    (s.setRoute k a).table p = s.table p := rfl
@[simp] theorem State.table_setEgress (s : State) (p : Part) (k : Dn) (a : Egress) :
    (s.setEgress k a).table p = s.table p := rfl
@[simp] theorem State.table_setSlots (s : State) (p : Part) (k : Part) (a : Slots) :
    (s.setSlots k a).table p = s.table p := rfl
@[simp] theorem State.table_setCtx (s : State) (p : Part) (k : Part) (a : Context) :
    (s.setCtx k a).table p = s.table p := rfl
@[simp] theorem State.table_setDPart (s : State) (p : Part) (k : Part) (a : DomainPart) :
    (s.setDPart k a).table p = s.table p := rfl
@[simp] theorem State.table_setOut (s : State) (p : Part) (k : Fin 16) (a : OutLine) :
    (s.setOut k a).table p = s.table p := rfl
@[simp] theorem State.table_setTrig (s : State) (p : Part) (k : Fin 8) (a : TrigLine) :
    (s.setTrig k a).table p = s.table p := rfl
@[simp] theorem State.table_setStall (s : State) (p : Part) (k : Fin 4) (a : StallLine) :
    (s.setStall k a).table p = s.table p := rfl
@[simp] theorem State.table_setRootRec (s : State) (p : Part) (k : Part) (a : RootRec) :
    (s.setRootRec k a).table p = s.table p := rfl

@[simp] theorem State.rootRec_setPort (s : State) (p : Part) (k : PortId) (a : Port) :
    (s.setPort k a).rootRec p = s.rootRec p := by
  cases k <;> rfl
@[simp] theorem State.rootRec_setDLink (s : State) (p : Part) (k : Dn) (a : DLink) :
    (s.setDLink k a).rootRec p = s.rootRec p := rfl
@[simp] theorem State.rootRec_setRoute (s : State) (p : Part) (k : Part) (a : RouteEntry) :
    (s.setRoute k a).rootRec p = s.rootRec p := rfl
@[simp] theorem State.rootRec_setEgress (s : State) (p : Part) (k : Dn) (a : Egress) :
    (s.setEgress k a).rootRec p = s.rootRec p := rfl
@[simp] theorem State.rootRec_setSlots (s : State) (p : Part) (k : Part) (a : Slots) :
    (s.setSlots k a).rootRec p = s.rootRec p := rfl
@[simp] theorem State.rootRec_setCtx (s : State) (p : Part) (k : Part) (a : Context) :
    (s.setCtx k a).rootRec p = s.rootRec p := rfl
@[simp] theorem State.rootRec_setDPart (s : State) (p : Part) (k : Part) (a : DomainPart) :
    (s.setDPart k a).rootRec p = s.rootRec p := rfl
@[simp] theorem State.rootRec_setOut (s : State) (p : Part) (k : Fin 16) (a : OutLine) :
    (s.setOut k a).rootRec p = s.rootRec p := rfl
@[simp] theorem State.rootRec_setTrig (s : State) (p : Part) (k : Fin 8) (a : TrigLine) :
    (s.setTrig k a).rootRec p = s.rootRec p := rfl
@[simp] theorem State.rootRec_setStall (s : State) (p : Part) (k : Fin 4) (a : StallLine) :
    (s.setStall k a).rootRec p = s.rootRec p := rfl
@[simp] theorem State.rootRec_setTable (s : State) (p : Part) (k : Part) (a : HoldTable) :
    (s.setTable k a).rootRec p = s.rootRec p := rfl

end Sys2Proof.Machine
end

