-- ==== Sys2Proof/Laws/Ops.lean ====
section
/-! SUPPORT. One lemma per shared operation that says once what it can do. -/

namespace Sys2Proof.Machine

open Sys2Proof

/-! Notes -/

/-- A NOTE read from a cell has the bytes 1 to 14 of that cell (R17, R50). -/
theorem Note.ofBytes_body (bytes : List Byte) : (Note.ofBytes bytes).body = (bodyOf bytes).toList := by
  unfold Note.ofBytes
  split
  · split
    · assumption
    · rfl
  · rfl

/-! Flags -/

theorem satSucc_le (n : Nat) (h : n ≤ counterMax) : satSucc n ≤ counterMax := by
  unfold satSucc; split <;> omega

theorem le_satSucc (n : Nat) : n ≤ satSucc n := by
  unfold satSucc; split <;> omega

@[simp] theorem pushNote_fresh (n : Note) (s : State) : (pushNote n s).own.fresh = s.own.fresh ++ [n] := rfl

/-- An event touches the latches alone, and may leave EVENT notes to be placed. -/
theorem raise_frame (e : Event) (s : State) :
    ∃ l ns, raise e s = (s.setMa { s.ma with latches := l }).setOwn { s.own with fresh := s.own.fresh ++ ns } ∧
      (∀ n ∈ ns, n.isEvent = true) ∧ (s.ma.enables = 0#16 → ns = []) := by
  unfold raise
  split
  · exact ⟨s.ma.latches, [], by simp [State.setMa, State.setOwn], by simp, by simp⟩
  · dsimp only
    split
    · exact ⟨_, [.event s.ownAddr e], rfl, by simp [Note.isEvent], by intro h; simp_all⟩
    · exact ⟨s.ma.latches ||| eventWeight e, [], by simp [State.setMa, State.setOwn], by simp, by simp⟩

@[simp] theorem raise_sansLog (e : Event) (s : State) : (raise e s).sansLog = s.sansLog := by
  obtain ⟨l, ns, h, -, -⟩ := raise_frame e s
  rw [h]; rfl

@[simp] theorem raise_latched (e : Event) (s : State) : (raise e s).latched e = true := by
  unfold raise
  split
  · assumption
  · have h : (s.ma.latches ||| eventWeight e).getLsbD e.code = true := by cases e <;> simp [eventWeight, Event.code]
    dsimp only
    split <;> exact h

/-- A latch once set stays, whatever is raised (R165). -/
theorem raise_keeps_latched (e f : Event) (s : State) (h : s.latched f = true) : (raise e s).latched f = true := by
  have h' : s.ma.latches.getLsbD f.code = true := h
  unfold raise
  split
  · exact h
  · dsimp only
    split <;> simp [State.latched, pushNote, h']

/-- A counter that reaches its end raises COUNTER_SATURATED and nothing else. -/
theorem raiseIfSaturated_cases (old : Nat) (s : State) :
    raiseIfSaturated old s = s ∨ raiseIfSaturated old s = raise .counterSaturated s := by
  unfold raiseIfSaturated; split <;> simp

@[simp] theorem raiseIfSaturated_sansLog (old : Nat) (s : State) : (raiseIfSaturated old s).sansLog = s.sansLog := by
  rcases raiseIfSaturated_cases old s with h | h <;> simp [h]

/-- A counter's increment touches that counter, and may raise COUNTER_SATURATED. -/
theorem bump_cases (x : PortId) (k : Fin 8) (s : State) :
    let t := s.setPort x { s.port x with counters := upd (s.port x).counters k (satSucc (s.counter x k)) }
    bump x k s = t ∨ bump x k s = raise .counterSaturated t :=
  raiseIfSaturated_cases _ _

theorem bumpHub_cases (k : Fin 3) (s : State) :
    let t := s.setMa { s.ma with counters := upd s.ma.counters k (satSucc (s.hubCounter k)) }
    bumpHub k s = t ∨ bumpHub k s = raise .counterSaturated t :=
  raiseIfSaturated_cases _ _

/-- Writing only the counters of a port is seen by nothing but the log. -/
theorem setPort_counters_sansLog (x : PortId) (c : Vector Nat 8) (s : State) :
    (s.setPort x { s.port x with counters := c }).sansLog = s.sansLog := by
  cases x with
  | u => rfl
  | d n =>
    have h : (tab fun m => (look (upd s.lp.dports n { s.port (.d n) with counters := c }) m).sansLog)
        = tab fun m => (look s.lp.dports m).sansLog := by
      congr 1
      funext m
      by_cases e : n = m
      · subst e; simp [Port.sansLog, State.port]
      · simp [e]
    simp only [State.sansLog, State.setPort, State.setLp, h]

@[simp] theorem bump_sansLog (x : PortId) (k : Fin 8) (s : State) : (bump x k s).sansLog = s.sansLog := by
  rcases bump_cases x k s with h | h <;> simp [h, setPort_counters_sansLog]

@[simp] theorem bumpHub_sansLog (k : Fin 3) (s : State) : (bumpHub k s).sansLog = s.sansLog := by
  rcases bumpHub_cases k s with h | h <;> rw [h]
  · rfl
  · rw [raise_sansLog]; rfl

/-! Free choices of order -/

/-- Whatever the choices, `arrange` reorders and neither loses nor adds. -/
theorem arrange_perm {α : Type} : ∀ (c : Nat) (l : List α), (arrange c l).Perm l
  | _, [] => .refl _
  | _, [_] => .refl _
  | c, x :: y :: l => by
    have ih := arrange_perm (c + 1) (y :: l)
    have hl : Config.freeChoice c % (l.length + 2) ≤ (arrange (c + 1) (y :: l)).length := by
      have := Nat.mod_lt (Config.freeChoice c) (show 0 < l.length + 2 by omega)
      rw [ih.length_eq]; simp only [List.length_cons]; omega
    exact (List.perm_insertIdx x _ hl).trans (ih.cons x)

/-- Whatever the choices, `weave` loses and adds nothing. -/
theorem weave_perm {α : Type} : ∀ (c : Nat) (xs ys : List α), (weave c xs ys).Perm (xs ++ ys)
  | _, [], ys => by simp [weave]
  | _, x :: xs, [] => by simp [weave]
  | c, x :: xs, y :: ys => by
    have ih := weave_perm (c + 1) xs ((y :: ys).drop (Config.freeChoice c % (ys.length + 2)))
    simp only [weave]
    refine ((ih.cons x).append_left _).trans ?_
    refine List.perm_middle.trans (List.Perm.cons x ?_)
    rw [← List.append_assoc]
    refine ((List.perm_append_comm).append_right _).trans ?_
    rw [List.append_assoc, List.take_append_drop]
    rfl

/-- Every note of a command is placed exactly once. -/
theorem noteOrder_mem (c : Nat) (l : List Note) (n : Note) : n ∈ noteOrder c l ↔ n ∈ l := by
  simp only [noteOrder, (weave_perm _ _ _).mem_iff, (arrange_perm _ _).mem_iff, List.mem_append, List.mem_filter]
  cases n <;> simp

/-! Upstream queues -/

/-- A note joins the tail, is discarded at a closed root, or is dropped, counted and raised (R59, R38). -/
theorem placeNote_cases (n : Note) (s : State) :
    (s.upstreamOpen = false ∧ placeNote n s = s) ∨
    (s.upstreamOpen = true ∧ s.cf.noteQ.length < 16 ∧
      placeNote n s = s.setCf { s.cf with noteQ := s.cf.noteQ ++ [n] }) ∨
    (s.upstreamOpen = true ∧ 16 ≤ s.cf.noteQ.length ∧ placeNote n s = raise .noteDrop (bump .u kNoteDrop s)) := by
  unfold placeNote
  cases h : s.upstreamOpen
  · simp
  · by_cases hl : s.cf.noteQ.length < 16
    · simp [hl]
    · simp [hl]; omega

@[simp] theorem placeNote_sansLog (n : Note) (s : State) : (placeNote n s).sansLog = s.sansLog := by
  rcases placeNote_cases n s with ⟨-, h⟩ | ⟨-, -, h⟩ | ⟨-, -, h⟩ <;> rw [h]
  · rfl
  · simp

/-- A response joins the tail, is discarded at a closed root, or is dropped and counted (R59, R38). -/
theorem placeResponse_cases (r : Response) (s : State) :
    (s.upstreamOpen = false ∧ placeResponse r s = s) ∨
    (s.upstreamOpen = true ∧ s.cf.respQ.length < 8 ∧
      placeResponse r s = s.setCf { s.cf with respQ := s.cf.respQ ++ [r] }) ∨
    (s.upstreamOpen = true ∧ 8 ≤ s.cf.respQ.length ∧ placeResponse r s = bump .u kResponseDrop s) := by
  unfold placeResponse
  cases h : s.upstreamOpen
  · simp
  · by_cases hl : s.cf.respQ.length < 8
    · simp [hl]
    · simp [hl]; omega

/-- With no note to place, placing notes changes nothing. -/
theorem settleNotes_of_none (k : Nat) (s : State) (h : s.own.fresh = []) : settleNotes k s = s := by
  cases k with
  | zero => simp only [settleNotes, ← h]; rfl
  | succ k => simp [settleNotes, h]

/-- After a command no note is left unplaced. -/
theorem settleNotes_fresh : ∀ (k : Nat) (s : State), (settleNotes k s).own.fresh = []
  | 0, _ => rfl
  | k + 1, s => by
    unfold settleNotes
    split
    · assumption
    · exact settleNotes_fresh k _

theorem foldl_sansLog {α : Type} (f : State → α → State) (h : ∀ s a, (f s a).sansLog = s.sansLog) :
    ∀ (l : List α) (s : State), (l.foldl f s).sansLog = s.sansLog
  | [], _ => rfl
  | a :: l, s => by rw [List.foldl_cons, foldl_sansLog f h l, h]

/-- Placing notes is seen by nothing but the log. -/
@[simp] theorem settleNotes_sansLog : ∀ (k : Nat) (s : State), (settleNotes k s).sansLog = s.sansLog
  | 0, _ => rfl
  | k + 1, s => by
    unfold settleNotes
    split
    · rfl
    · rw [settleNotes_sansLog k, foldl_sansLog _ fun s n => placeNote_sansLog n s]; rfl

/-! Summary slots -/

/-- A FAULT report goes to the root controller, finds a cause waiting, or takes the slot (R56, R60). -/
theorem writeFault_cases (p : Part) (r : FaultReport) (s : State) :
    (s.isRoot = true ∧ writeFault p r s = toRoot (.fault p { r with origin := 0x0000#16 }) s) ∨
    (s.isRoot = false ∧
      writeFault p r s = s.setSlots p { s.slots p with fault := some ((s.slots p).fault.getD r) }) := by
  unfold writeFault
  cases h : s.isRoot
  · right
    refine ⟨rfl, ?_⟩
    simp only [Bool.false_eq_true, if_false]
    split
    · next g hg => rw [hg, Option.getD_some, ← hg]; exact (State.setSlots_slots s p).symm
    · next hg => rw [hg]; rfl
  · left; simp

/-- A pace state is settled: it is the one that its sources give, and nothing of the context but it has moved (R84). -/
theorem settlePace_ctx (p : Part) (s : State) :
    (settlePace p s).ctx p = { s.ctx p with pace := s.paceOf p } := by
  have hr : ∀ (e : Event) (u : State), (raise e u).ctx p = u.ctx p := by
    intro e u
    obtain ⟨l, ns, h, -, -⟩ := raise_frame e u
    rw [h]; rfl
  have hw : ∀ (v : Bool) (u : State), (writePace p v u).ctx p = u.ctx p := by
    intro v u
    unfold writePace; split <;> simp
  unfold settlePace
  by_cases h : s.paceOf p = (s.ctx p).pace
  · simp only [h, if_true]
  · simp only [h, if_false]
    split <;> split <;> simp [hr, hw]

/-! Hold source tables -/

/-- The table of `p` after an entry takes a value: that entry has it, the others are as they were. -/
theorem followHold_entries (p q : Part) (s : State) : ((followHold p s).table q).entries = (s.table q).entries := by
  have hs : ∀ (u : State) (a : Option Nat),
      ((u.setTable p { u.table p with announced := a }).table q).entries = (u.table q).entries := by
    intro u a
    by_cases h : p = q
    · subst h; simp
    · simp [h]
  have hr : ∀ (r : Report) (u : State), (toRoot r u).table q = u.table q := fun _ _ => rfl
  have hon : ∀ (m : Nat), ((announceOn p m s).table q).entries = (s.table q).entries := by
    intro m
    unfold announceOn
    dsimp only
    split <;> simp [hr, hs]
  have hoff : ((announceOff p s).table q).entries = (s.table q).entries := by
    unfold announceOff
    dsimp only
    repeat' split
    all_goals simp [hr, hs]
  unfold followHold
  repeat' split
  all_goals first | rfl | exact hoff | exact hon _

theorem setEntry_entries (p : Part) (i : Fin 10) (v : Option Nat) (s : State) :
    ((setEntry p i v s).table p).entries = upd (s.table p).entries i v := by
  unfold setEntry
  split
  · next h => rw [← h, upd_look]
  · rw [followHold_entries]; simp

theorem setEntry_entries_ne (p q : Part) (i : Fin 10) (v : Option Nat) (s : State) (h : p ≠ q) :
    ((setEntry p i v s).table q).entries = (s.table q).entries := by
  unfold setEntry
  split
  · rfl
  · rw [followHold_entries]; simp [h]

/-! Silence and pins -/

/-- All seven ports are silenced, and nothing else changes (R19). -/
theorem silence_port (x : PortId) (s : State) : (silence s).port x = (s.port x).silenced := by
  cases x with
  | d n => simp [silence, silenceLinks, State.port, State.setPort]
  | u => simp [silence, silenceLinks, State.port, State.setPort]

theorem silence_frame (s : State) :
    silence s = s.setLp { s.lp with dports := (silence s).lp.dports, uport := s.lp.uport.silenced } := rfl

/-- A silenced port differs in the cell and the slot alone. -/
theorem silenced_frame (p : Port) : { p.silenced with sent := p.sent, nextSlot := p.nextSlot } = p := rfl

theorem showLevels_out (i : Fin 16) (s : State) :
    (showLevels s).out i = { s.out i with pin := (s.out i).level } := by
  simp [showLevels, State.out]

/-- Where no report waits, none is taken. -/
@[simp] theorem settleReports_nil (k : Nat) (s : State) (h : s.own.inbox = []) : settleReports (k + 1) s = s := by
  simp [settleReports, h]

/-- Where no note waits, none is placed. -/
@[simp] theorem settleNotes_nil (k : Nat) (s : State) (h : s.own.fresh = []) : settleNotes (k + 1) s = s := by
  simp [settleNotes, h]

/-! Steps -/

@[simp] theorem step_idle (s : State) (h : s.pending = []) : step s = .next s := by simp [step, h]

theorem step_front (s : State) (c : Instr) (rest : List Instr) (h : s.pending = c :: rest) :
    step s = exec c { s with pending := rest } := by simp [step, h]

/-- No word of the table spells a command: the table gives its rows no bits. -/
@[simp] theorem withFetchWord_eq (s : State) (nbits w : Nat) : s.withFetchWord nbits w = s := by
  simp [State.withFetchWord, decodeTableWord]

end Sys2Proof.Machine
end

