-- ==== Sys2Proof/Tests/Slice0.lean ====
section
/-! SUPPORT. Tests: ill-formed commands are refused, the manual's worked examples come out as it gives them, one or two
small steps for each command, and a state that meets the hypotheses of each obligation. -/

set_option Elab.async false

namespace Sys2Proof.Tests

open Sys2Proof Sys2Proof.Machine

/-! States -/

/-- The state that a command leaves. -/
def after (c : Instr) (s : State) : State :=
  match exec c s with
  | .next t => t
  | .fault _ | .refused _ => s

/-- A D port in UP with a link latency, at a hub with path latency `lat`. -/
def upPort (l lat : Nat) : Port := { Port.reset with state := .up, signal := true, linkLat := l, pathLat := lat + l }

/-- A hub in service: U in UP, links D1 (latency 32), D2 and D3 (latency 40) in UP, the others without a signal. -/
def hubAt (r : Role) (a : Addr) (d lat : Nat) : State :=
  let s := State.powerOn r
  { s with
    now := 20000
    ref := ⟨.locked, 8192, true⟩
    lp :=
      { s.lp with
        dports := tab fun n => if n = 1 then upPort 32 lat else if n = 2 ∨ n = 3 then upPort 40 lat else Port.reset
        uport := { Port.reset with state := .up, signal := true, pathLat := lat }
        address := some a
        depth := some d
        pathLat := lat } }

/-- Hub 3 of the manual's examples (Table 2-12), and its root. -/
def hub3 : State := hubAt .child 0x20C0#16 1 40
def root : State := hubAt .root 0x0000#16 0 0

/-- A context of a run from epoch 1000: steps below 5041 executed, 5041 waiting. -/
def runCtx (st : CtxState) (f : Option Nat) : Context :=
  { Context.reset with
    state := st, epoch := 1000, expected := 5042, last := some 5040, freeze := f, queue := [⟨5041, 20000⟩] }

/-- The same context once every step below 5042 is executed and the run frozen there. -/
def frozenCtx : Context :=
  { Context.reset with
    state := .frozen, epoch := 1000, expected := 5042, last := some 5041, freeze := some 5042, frozenMark := 19000 }

/-- P2 local and routed to D1, with the context given. -/
def withRun (s : State) (c : Context) : State := (s.setRoute 2 ⟨2#6, true⟩).setCtx 2 c

/-- P2 running at hub 3. -/
def run3 : State := withRun hub3 (runCtx .running none)
def freezing3 : State := withRun hub3 (runCtx .freezing (some 5064))
def frozen3 : State := withRun hub3 frozenCtx

/-- A record of P2 at the root whose last issued step is 5041 (section 8.7). -/
def rec42 (st : RootState) (f : Option Nat) (cs : Causes) : RootRec :=
  { RootRec.reset with
    state := st, epoch := 1000, lastIssued := some 5041, lastIssueTime := some 18976, freeze := f, causes := cs,
    nextIssue := some 20000 }

/-- P2 running, freezing and frozen at the root. -/
def runR : State := (withRun root (runCtx .running none)).setRootRec 2 (rec42 .running none Causes.none)
def freezingR (cs : Causes) : State :=
  (withRun root { runCtx .freezing (some 5064) with causes := cs }).setRootRec 2 (rec42 .freezing (some 5064) cs)
def frozenR (cs : Causes) : State :=
  (withRun root { frozenCtx with causes := cs }).setRootRec 2 (rec42 .frozen (some 5042) cs)

def control : Causes := { Causes.none with control := true }
def stall : Causes := { Causes.none with stall := true }

/-- A request to a hub's own agent, at the head of its queue. -/
def req (op : Op) (object index field : BitVec 8) (value : BitVec 32) : Request :=
  { op, noResponse := false, dest := 0x20C0#16, tag := 0x0031#16, object, index, field, value }
def asked (s : State) (r : Request) : State := s.setMa { s.ma with queue := [r] }

/-- The status and the VALUE of the last response placed. -/
def answer (s : State) : Option (Byte × BitVec 32) := s.cf.respQ.getLast?.map fun r => (r.status, r.value)
def status (st : Status) (v : BitVec 32) : Option (Byte × BitVec 32) := some (BitVec.ofNat 8 st.code, v)

/-! Ill-formed commands -/

theorem test_badCell_needs_bad_check : ¬ (Instr.badCell .u Cell.idle.bytes).WellFormed := by decide +kernel
theorem test_unknownKind_needs_unknown : ¬ (Instr.unknownKind .u 0x11#8).WellFormed := by decide
theorem test_step_number_fits : ¬ (Instr.step .u 0 (2 ^ 40) 0).WellFormed := by decide +kernel
theorem test_step_age_fits : ¬ (Instr.step .u 0 0 4096).WellFormed := by decide
theorem test_start_fits : ¬ (Instr.start .u 0 (2 ^ 40)).WellFormed := by decide +kernel
theorem test_freeze_fits : ¬ (Instr.freeze .u 0 (2 ^ 40) Causes.none false).WellFormed := by decide +kernel
theorem test_resume_fits : ¬ (Instr.resume .u 0 (2 ^ 40)).WellFormed := by decide +kernel
theorem test_swap_fits : ¬ (Instr.swap .u 0 (2 ^ 40)).WellFormed := by decide +kernel
theorem test_hold_fits : ¬ (Instr.hold (.d 0) 0 (some (2 ^ 40))).WellFormed := by decide +kernel
theorem test_haltreq_fits : ¬ (Instr.haltreq (.d 0) 0 0 ⟨2 ^ 40, 0, 0⟩).WellFormed := by decide +kernel
theorem test_fault_fits : ¬ (Instr.fault (.d 0) 0 ⟨.overrun, 0, some (2 ^ 40)⟩).WellFormed := by decide +kernel
theorem test_note_occurrence_fits : ¬ (Instr.note (.d 0) (.trigger 0 0 0 0 0)).WellFormed := by decide
theorem test_note_state_fits :
    ¬ (Instr.note (.d 0) (.state 0 .idle Causes.none none (some (2 ^ 40)))).WellFormed := by decide +kernel
theorem test_note_other_is_not_defined :
    ¬ (Instr.note (.d 0) (.other (tab fun i => if i.val = 1 then 2#8 else 0#8))).WellFormed := by decide +kernel
theorem test_row_names_its_request : ¬ (Instr.cmdStart (req .read 0x01#8 0#8 0#8 0#32)).WellFormed := by decide
theorem test_every_agent_row_checks_its_request :
    let read0 := req .read 0x01#8 0#8 0#8 0#32
    ¬ (Instr.cmdPause read0).WellFormed ∧ ¬ (Instr.cmdContinue read0).WellFormed ∧ ¬ (Instr.cmdAbort
    read0).WellFormed ∧ ¬ (Instr.cmdSwap read0).WellFormed ∧ ¬ (Instr.cmdResetHub read0).WellFormed ∧ ¬
    (Instr.cmdRetrain read0).WellFormed ∧ ¬ (Instr.cmdFlush read0).WellFormed ∧ ¬ (Instr.capturePop
    read0).WellFormed ∧ ¬ (Instr.triggerWrite read0).WellFormed ∧ ¬ (Instr.stallWrite read0).WellFormed ∧ ¬
    (Instr.outputWrite read0).WellFormed ∧ ¬ (Instr.hubWrite read0).WellFormed ∧ ¬ (Instr.counterWrite
    read0).WellFormed ∧ ¬ (Instr.eventsWrite read0).WellFormed := by decide
theorem test_managementWrite_is_of_no_other_row :
    ¬ (Instr.managementWrite (req .pop 0x0B#8 0#8 0#8 0#32)).WellFormed := by decide

/-! Cells and addresses -/

/-- The check value of R2: the remainder over the ASCII digits 1 to 9. -/
theorem test_crc_of_digits :
    crc [0x31#8, 0x32#8, 0x33#8, 0x34#8, 0x35#8, 0x36#8, 0x37#8, 0x38#8, 0x39#8] = 0xF4#8 := by decide +kernel

/-- The STEP cell of Table 1-11. -/
def stepBytes : List Byte :=
  [0x01#8, 0x80#8, 0x00#8, 0x00#8, 0x00#8, 0x13#8, 0x88#8, 0x00#8, 0x06#8, 0#8, 0#8, 0#8, 0#8, 0#8, 0#8, 0x7F#8]

theorem test_table_1_11_sent : (Cell.step 2 5000 6).bytes = stepBytes := by decide +kernel
theorem test_table_1_11_received : Instr.ofArrival .u stepBytes = some (.step .u 2 5000 6) := by decide +kernel

/-- Table 1-11 with one bit of byte 6 inverted is a bad cell. -/
theorem test_table_1_11_changed : checkPasses (stepBytes.set 6 0x89#8) = false := by decide +kernel

/-- A NOTE of subtype 5, which Table 1-9 does not define, is read and sent on as its bytes (R17, R50). -/
def note5 : Vector Byte 14 := tab fun i => if i.val = 1 then 5#8 else BitVec.ofNat 8 (3 * i.val)

theorem test_note_of_no_subtype_passes :
    Instr.ofArrival (.d 1) (Cell.note (.other note5)).bytes = some (.note (.d 1) (.other note5)) ∧
    (after (.note (.d 1) (.other note5)) hub3).cf.noteQ = [.other note5] := by decide +kernel

/-- Bytes 0 to 14 with their CHECK. -/
def checked (head : List Byte) : List Byte := head ++ [crc head]

/-- An MREQ for hub 3.1, an MRSP and a TRIGGER note whose unused bits are not zero go on as they came (R48, R50), and the
agent of hub 3.1's parent takes such a request as any other (R1). -/
def oddMreq : List Byte :=
  checked [0x07#8, 0xDC#8, 0x40#8, 0xC8#8, 0#8, 0x31#8, 0x01#8, 0#8, 2#8, 0#8, 0#8, 0#8, 0#8, 0xA5#8, 0x5A#8]
def oddMrsp : List Byte :=
  checked [0x16#8, 0xFC#8, 0x40#8, 0xC8#8, 0#8, 0x31#8, 0x01#8, 0#8, 2#8, 0#8, 0#8, 0#8, 1#8, 0#8, 0x77#8]
def oddNote : List Byte :=
  checked [0x15#8, 0xC3#8, 0#8, 0x20#8, 0xC0#8, 0xBA#8, 0#8, 0#8, 0#8, 0x13#8, 0x88#8, 0#8, 1#8, 0x11#8, 0x22#8]

/-- The cell that waits at the head of the queue an arrival fills. -/
def forwarded (x : PortId) (bytes : List Byte) : Option (List Byte) :=
  (Instr.ofArrival x bytes).bind fun c =>
    let t := after c hub3
    (((t.egress 1).mgmt.map Cell.mreq ++ t.cf.noteQ.map Cell.note ++ t.cf.respQ.map Cell.mrsp).head?).map Cell.bytes

theorem test_odd_cells_pass_unchanged :
    forwarded .u oddMreq = some oddMreq ∧ forwarded (.d 1) oddMrsp = some oddMrsp ∧
    forwarded (.d 1) oddNote = some oddNote := by decide +kernel
theorem test_odd_request_is_answered :
    let r := { req .read 0x01#8 0#8 1#8 0#32 with unusedFlags := 31#5, unusedTail := 0xA55A#16 }
    answer (after (.managementWrite r) (asked hub3 r)) = status .ok 0x0460#32 := by decide +kernel

/-- An ABORT of P2 has PART alone (R1, R14). -/
theorem test_abort_is_all_zero :
    (Cell.run 2 .abort).head = 0x05#8 :: 0x80#8 :: zeros 13 := by decide +kernel

/-- Wherever its field stands, an ECHO of round 0 has an all-zero body, and one of round 5 a single byte (R1, R15). -/
theorem test_echo_of_round_0_is_all_zero : (Cell.echo 0).fieldBody.filter (fun b => b != 0#8) = [] :=
  (Cell.fieldBody_used (.echo 0)).eq_nil
theorem test_echo_of_round_5_has_one_byte : (Cell.echo 5).fieldBody.filter (fun b => b != 0#8) = [5#8] :=
  List.perm_singleton.mp (Cell.fieldBody_used (.echo 5))

/-- The addresses of Table 1-12, and where a request to 0x40C8 goes (chapter 1, after Table 1-12). -/
theorem test_table_1_12 :
    Addr.child 0x0000#16 0 3 = 0x20C0#16 ∧ Addr.child 0x20C0#16 1 1 = 0x40C8#16 ∧
    Addr.route 0x40C8#16 0x0000#16 0 = .below 3 ∧ Addr.route 0x40C8#16 0x20C0#16 1 = .below 1 ∧
    Addr.route 0x40C8#16 0x40C8#16 2 = .here := by decide +kernel

theorem test_no_word_spells_a_command : decodeTableWord 32 0 = none := rfl

/-! Worked examples of single rules -/

/-- The round values of Table 2-6. -/
theorem test_table_2_6 : [4, 6, 68, 70, 84, 86, 87, 1024].map roundValue = [0, 0, 31, 32, 39, 40, 41, 509] := by decide

/-- The levels of Table 5-4: period 10, phase 3, duty code 21, epoch 1000, steps 1000 to 1013. -/
theorem test_table_5_4 :
    (List.range 14).map (fun k => entryLevel ⟨.clock, 10, 3, 21, false⟩ 1000 (1000 + k))
      = [false, false, false, true, true, true, false, false, false, false, false, false, false, true] := by
  decide +kernel

/-! Resets, time and the reference -/

theorem test_powerOnReset_takes_rootsel : (after (.powerOnReset true) run3).role = .root := by decide +kernel
theorem test_porstAsserted_outputs_low :
    ((after .porstAsserted (hub3.setOut 5 ⟨false, 0, false, true, true, true⟩)).out 5).pin = false := by decide +kernel
theorem test_levels_join_the_kept :
    look (after (.levelTakenEachRp 4#8 0#4) hub3).tu.kept 2 = ⟨false, false, true⟩ := by decide +kernel
theorem test_settled_reference_is_locked :
    let t := after .settleTimerExpiry (State.reset.setRef ⟨.settling, 8192, false⟩)
    t.ref.state = .locked ∧ (t.port .u).state = .training ∧ t.latched .refLocked = true := by decide +kernel
theorem test_signalPresent_settles : (after (.signalPresent (.pair .u)) State.reset).ref.state = .settling := by
  decide +kernel
/-- A cable pulled from hub 3's U (section 2.10). -/
theorem test_signalLost_at_U :
    let t := after (.signalLost (.pair .u)) run3
    (t.port .u).state = .down ∧ t.ref.state = .unlocked ∧ (t.ctx 2).fault = some .uplink ∧
      (t.port (.d 1)).state = .down ∧ t.latched .refLost = true := by decide +kernel
theorem test_lossOfLock_faults_with_reference :
    let t := after .lossOfLock run3
    (t.ctx 2).fault = some .reference ∧ t.ref.state = .settling := by decide +kernel
/-- Ports that fall silent keep no cell on their links (R19). -/
theorem test_silent_ports_have_no_cell :
    let s := run3.setPort (.d 1) { upPort 32 40 with sent := some (.step 2 5041 3), nextSlot := 20001 }
    let t := after .lossOfLock s
    (t.port (.d 1)).sent = none ∧ (t.port (.d 1)).nextSlot = 0 := by decide +kernel
/-- The FREEZE of a run at the root finds its links UP when REFIN is lost (R40, R158). -/
theorem test_reference_loss_leaves_no_dead_route :
    let t := after (.signalLost .refin) runR
    t.counter (.d 1) kDeadRoute = 0 ∧ (t.rootRec 2).state = .faulted ∧ (t.egress 1).urgent = [] := by decide +kernel
/-- An enabled event makes a note when its latch goes from clear to set (R166). -/
theorem test_enabled_event_makes_a_note :
    let s := run3.setMa { run3.ma with enables := 0x0010#16 }
    (after .lossOfLock s).cf.noteQ = [.event 0x20C0#16 .refLost] := by decide +kernel
theorem test_full_counter_raises :
    let s := hub3.setPort .u { hub3.port .u with counters := tab fun _ => 65534 }
    (after (.unknownKind .u 0x77#8) s).latched .counterSaturated = true := by decide +kernel
theorem test_trainingWindow_counts_the_attempt :
    let s := hub3.setPort (.d 4) { Port.reset with state := .training, signal := true, windowFrom := 15904 }
    let t := after (.trainingWindowExpiry (.d 4)) s
    (t.port (.d 4)).attempts = 1 ∧ t.counter (.d 4) 2 = 1 ∧ (t.port (.d 4)).windowFrom = 20000 := by decide +kernel
/-- An ECHO(0) that went unanswered for 1024 RP (section 2.10). -/
theorem test_roundTimeout_fails_the_attempt :
    let s := (hub3.setPort (.d 4) { Port.reset with state := .measuring, signal := true }).setDLink 4
      ⟨⟨0, some 18976, []⟩, 0, false, 0x0000#16⟩
    let t := after (.roundTimeout 4) s
    (t.port (.d 4)).attempts = 1 ∧ (t.port (.d 4)).state = .training := by decide +kernel
theorem test_enumRefresh_waits_for_a_slot :
    ((after (.enumRefreshExpiry 1) (hub3.setDLink 1 ⟨Measure.fresh, 15904, false, 0x40C8#16⟩)).dlink 1).enumWaiting = true := by
  decide +kernel

/-! Received cells -/

theorem test_idle_64_aligns :
    let s := hub3.setPort (.d 4) { Port.reset with state := .training, signal := true, trainRun := 63 }
    ((after (.idle (.d 4)) s).port (.d 4)).state = .measuring := by decide +kernel
theorem test_badCell_counts :
    let t := after (.badCell .u (stepBytes.set 6 0x89#8)) run3
    t.counter .u 0 = 1 ∧ (t.port .u).badRun = 1 ∧ (t.ctx 2).expected = 5042 := by decide +kernel
theorem test_unknownKind_counts : (after (.unknownKind .u 0x77#8) run3).counter .u 1 = 1 := by decide +kernel
theorem test_echo_is_owed_6_later : (after (.echo .u 3) hub3).lp.echoes = [⟨20006, 3⟩] := by decide +kernel
/-- The last round of Table 2-11: link latency 40, UP, ENUM with 0x20C0 to send. -/
theorem test_table_2_11 :
    let s := (root.setPort (.d 3) { Port.reset with state := .measuring, signal := true }).setDLink 3
      ⟨⟨7, some 19915, [85, 86, 85, 84, 85, 86, 85]⟩, 0, false, 0x0000#16⟩
    let t := after (.echoBack (.d 3) 7) s
    (t.port (.d 3)).state = .up ∧ (t.port (.d 3)).linkLat = 40 ∧ (t.port (.d 3)).pathLat = 40 ∧
      (t.dlink 3).enumWaiting = true ∧ (t.dlink 3).child = 0x20C0#16 := by decide +kernel
theorem test_enum_gives_the_position :
    let s := (hub3.setLp { hub3.lp with address := none, depth := none, pathLat := 0 }).setPort .u
      { Port.reset with state := .waitEnum, signal := true }
    let t := after (.enum .u 0x20C0#16 1 40) s
    t.lp.address = some 0x20C0#16 ∧ t.lp.pathLat = 40 ∧ (t.port .u).state = .up := by decide +kernel
/-- A new path latency that D2 cannot carry takes it out of UP as a failed attempt (R32). -/
theorem test_enum_out_of_range_fails_the_link :
    let t := after (.enum .u 0x20C0#16 1 16344) hub3
    (t.port (.d 1)).pathLat = 16376 ∧ (t.port (.d 2)).state = .training ∧ (t.port (.d 2)).attempts = 1 ∧
      t.counter (.d 2) kLinkLoss = 1 ∧ t.latched .linkDown = true := by decide +kernel
/-- STEP 5042 with AGE 2 at hub 3 is held 982 (Table 4-7), and a copy waits on D1. -/
theorem test_table_4_7 :
    let t := after (.step .u 2 5042 2) run3
    (t.ctx 2).queue = [⟨5041, 20000⟩, ⟨5042, 20982⟩] ∧ (t.egress 1).steps = [⟨2, 5042, 2, 20000⟩] := by decide +kernel
theorem test_step_gap_faults : ((after (.step .u 2 5043 2) run3).ctx 2).fault = some .stepGap := by decide +kernel
theorem test_start_arms :
    let t := after (.start .u 2 200) (withRun hub3 Context.reset)
    (t.ctx 2).state = .armed ∧ (t.ctx 2).expected = 200 ∧ (t.egress 1).urgent = [⟨2, .start 200⟩] := by decide +kernel
/-- FREEZE(5064) finds the expected step 5042 (Table 4-9). -/
theorem test_table_4_9_freeze :
    let t := after (.freeze .u 2 5064 stall false) run3
    (t.ctx 2).state = .freezing ∧ (t.ctx 2).freeze = some 5064 := by decide +kernel
theorem test_resume_goes_on :
    let t := after (.resume .u 2 5064) freezing3
    (t.ctx 2).state = .running ∧ (t.ctx 2).freeze = none := by decide +kernel
theorem test_abort_idles : ((after (.abort .u 2) run3).ctx 2).state = .idle := by decide +kernel
theorem test_swap_waits : ((after (.swap .u 2 5050) run3).dpart 2).swaps = [5050] := by decide +kernel
theorem test_swap_late_is_counted : (after (.swap .u 2 5041) run3).hubCounter 1 = 1 := by decide +kernel
/-- A request to 0x40C8 leaves hub 3 on D1 (chapter 1, after Table 1-12). -/
theorem test_mreq_goes_below :
    let r : Request := { req .read 0x01#8 0#8 0#8 0#32 with dest := 0x40C8#16 }
    ((after (.mreq .u r) hub3).egress 1).mgmt = [r] := by decide +kernel

/-- P2 at hub 3 with D1 and D2 in its mask (section 7.7). -/
def hold7 : State := run3.setRoute 2 ⟨6#6, true⟩

/-- Events 1 and 3 of Table 7-4. -/
theorem test_table_7_4 :
    let t := after (.hold (.d 2) 2 (some 4996)) (after (.hold (.d 1) 2 (some 5000)) hold7)
    (t.table 2).announced = some 4996 ∧ (t.slots 2).hold = some (.on 4996) := by decide +kernel
/-- Event 7 of Table 7-4: the set empties with reported state ON. -/
theorem test_table_7_4_off :
    let s := (after (.hold (.d 1) 2 (some 4998)) hold7)
    let s := s.setSlots 2 { s.slots 2 with hold := none, reported := true }
    ((after (.hold (.d 1) 2 none) s).slots 2).hold = some .off := by decide +kernel
theorem test_haltreq_takes_the_slot :
    look ((after (.haltreq (.d 1) 2 0 ⟨4999, 0x40C8#16, 1⟩) run3).slots 2).haltreq 0 = some ⟨4999, 0x40C8#16, 1⟩ := by
  decide +kernel
theorem test_fault_keeps_the_first_cause :
    let s := after (.fault (.d 1) 2 ⟨.childLink, 0x40C8#16, some 5041⟩) run3
    ((after (.fault (.d 1) 2 ⟨.stepGap, 0x40C8#16, none⟩) s).slots 2).fault
      = some ⟨.childLink, 0x40C8#16, some 5041⟩ := by decide +kernel
theorem test_stray_is_counted : (after (.fault (.d 2) 2 ⟨.stepGap, 0x40D0#16, none⟩) run3).counter (.d 2) 5 = 1 := by
  decide +kernel
theorem test_pace_slow_goes_up :
    let t := after (.pace (.d 1) 2 true) run3
    (t.slots 2).pace = some true ∧ t.latched .paceSlow = true := by decide +kernel
theorem test_note_joins :
    (after (.note (.d 2) (.event 0x40D0#16 .linkUp)) hub3).cf.noteQ = [.event 0x40D0#16 .linkUp] := by decide +kernel
theorem test_mrsp_joins :
    (after (.mrsp (.d 1) ⟨.read, 0x40C8#16, 1#16, 1#8, 0#8, 0#8, 7#32, 0x4D#8, 0#6, 0#8⟩) hub3).cf.respQ.length = 1 := by
  decide +kernel

/-! Slots -/

/-- The slot at t + 3 of Table 3-8: STEP 700 leaves root D3 with AGE 3. -/
theorem test_table_3_8 :
    let s := root.setEgress 3 ⟨[], [⟨0, 700, 0, 19997⟩, ⟨1, 9000, 0, 19997⟩], [], false⟩
    ((after (.dPortCellSlot 3) s).port (.d 3)).sent = some (.step 0 700 3) := by decide +kernel

/-- The stores of Table 3-9. -/
def table39 : State :=
  (hub3.setCf
    { hub3.cf with lastServed := 1, noteQ := [.trigger 0x40D0#16 2 0 1 1] }).setSlots 0
      { Slots.reset with hold := some (.on 412) } |>.setSlots 2
      { Slots.reset with
        fault := some ⟨.childLink, 0x40C8#16, some 5041⟩
        haltreq := tab fun c => if c = 1 then some ⟨5038, 0x40C8#16, 3⟩ else none }

def nextSlot (s : State) : State := after .uPortCellSlot { s with now := s.now + 2 }

/-- Slots 1 to 3 of Table 3-10. -/
theorem test_table_3_10 :
    let a := nextSlot table39
    let b := nextSlot a
    let c := nextSlot b
    (a.port .u).sent = some (.fault 2 ⟨.childLink, 0x40C8#16, some 5041⟩) ∧
    (b.port .u).sent = some (.hold 0 (some 412)) ∧ (b.slots 0).reported = true ∧
    (c.port .u).sent = some (.haltreq 2 1 ⟨5038, 0x40C8#16, 3⟩) ∧ c.cf.lastServed = 2 := by decide +kernel

/-! Executions -/

/-- The execution of 5063 ends the freeze of Table 4-9. -/
theorem test_table_4_9_frozen :
    let s := withRun hub3
      { runCtx .freezing (some 5064) with expected := 5064, last := some 5062, queue := [⟨5063, 20000⟩] }
    let t := after (.stepExecution 2) s
    (t.ctx 2).state = .frozen ∧ (t.ctx 2).last = some 5063 := by decide +kernel

/-- Line 5 follows a slot of P2 whose domain is HIGH: the execution drives it, the pin shows it when the RP ends (R99). -/
def drive3 : State :=
  let s := run3.setOut 5 ⟨true, 4, false, false, false, false⟩
  s.setDg { s.dg with
    slots := upd s.dg.slots 4 2
    entries := upd s.dg.entries 4 ⟨.heldHigh, 2, 0, 32, false⟩ }

theorem test_pin_shows_the_level_of_the_rp :
    let a := after (.stepExecution 2) drive3
    let b := after (.levelTakenEachRp 0#8 0#4) a
    (a.out 5).level = true ∧ (a.out 5).pin = false ∧ (b.out 5).pin = true := by decide +kernel

/-- TRG2 of Table 6-5, as the execution of step 5034 finds it (Table 6-6). -/
def table66 : State :=
  let s := withRun hub3
    { runCtx .running none with
      expected := 5035, last := some 5033, queue := [⟨5034, 20000⟩]
      prev := tab fun i => if i = 2 then some false else none }
  (s.setTrig 2 ⟨true, 2, .rise, 2, true, true, 1, 1, 0⟩).setTu
    { (s.setTrig 2 ⟨true, 2, .rise, 2, true, true, 1, 1, 0⟩).tu with
      kept := tab fun i => if i = 2 then ⟨false, true, true⟩ else ⟨false, false, false⟩ }

theorem test_table_6_6 :
    let t := after (.stepExecution 2) table66
    (t.trig 2).count = 0 ∧ (t.trig 2).fired = 1 ∧ t.tu.captures = [⟨2, 2, 5034, 1⟩] ∧
      look (t.slots 2).haltreq 1 = some ⟨5034, 0x20C0#16, 2⟩ := by decide +kernel

/-- The RP y + 42 of Table 7-6: STL1 is found released. -/
def table76 : State :=
  let s := (frozen3.setStall 1 ⟨true, 2, false, true⟩).setTable 2
    ⟨tab fun i => if i = 1 then some 5021 else none, some 5021⟩
  (s.setHu { s.hu with kept := tab fun i => if i = 1 then ⟨true, false, false⟩ else ⟨false, false, false⟩ }).setSlots 2
    { Slots.reset with reported := true }

theorem test_table_7_6 :
    let t := after (.frozenStallSampling 2) table76
    look (t.table 2).entries 1 = none ∧ (t.slots 2).hold = some .off := by decide +kernel

/-! The root -/

/-- Interval 4 of Table 8-2: 15 + 405 sixteenths. -/
theorem test_table_8_2 :
    let t := after (.stepIssue 2) (runR.setRootRec 2 { rec42 .running none Causes.none with period := 405, acc := 15 })
    (t.rootRec 2).acc = 4 ∧ (t.rootRec 2).nextIssue = some 20026 ∧ (t.rootRec 2).lastIssued = some 5042 := by
  decide +kernel
/-- A hold of stamp 5000 with K = 64 (Table 8-3, first row; last issued 5041 here). -/
theorem test_table_8_3 :
    let t := after (.hold (.d 1) 2 (some 5000)) runR
    (t.rootRec 2).freeze = some 5064 ∧ (t.rootRec 2).state = .freezing ∧ (t.rootRec 2).causes = stall ∧
      (t.egress 1).urgent = [⟨2, .freeze 5064 stall false⟩] := by decide +kernel
/-- The same with K = 32: the lead is cut short (Table 8-3, second row). -/
theorem test_table_8_3_short :
    let t := after (.hold (.d 1) 2 (some 5000)) (runR.setRootRec 2 { rec42 .running none Causes.none with lead := 32 })
    (t.rootRec 2).freeze = some 5042 ∧ (t.egress 1).urgent = [⟨2, .freeze 5042 stall true⟩] := by decide +kernel
/-- FROZEN 1024 RP after the issue of the step before the freeze point (R147). -/
theorem test_rootFrozen :
    let s := runR.setRootRec 2 { rec42 .freezing (some 5042) control with lastIssueTime := some 18976 }
    ((after (.rootFrozen 2) s).rootRec 2).state = .frozen := by decide +kernel
/-- START with count 1000 (Table 8-4). -/
theorem test_table_8_4 :
    let r := req .cmd 0x0E#8 2#8 1#8 0#32
    let s := asked ((withRun root Context.reset).setRootRec 2 { RootRec.reset with count := 1000 }) r
    let t := after (.cmdStart r) s
    (t.rootRec 2).freeze = some 1000 ∧ (t.egress 1).urgent.length = 2 ∧ (t.rootRec 2).nextIssue = some 20001 := by
  decide +kernel
theorem test_pause_stops_at_the_next_step :
    let r := req .cmd 0x0E#8 2#8 2#8 0#32
    ((after (.cmdPause r) (asked runR r)).rootRec 2).freeze = some 5042 := by decide +kernel
theorem test_continue_resumes :
    let r := req .cmd 0x0E#8 2#8 3#8 0#32
    let t := after (.cmdContinue r) (asked (frozenR control) r)
    (t.rootRec 2).state = .running ∧ (t.rootRec 2).lastIssued = some 5042 := by decide +kernel
/-- P2 at the root with 128 steps waiting, and the same stopped there. -/
def fullCtx (st : CtxState) (f : Option Nat) : Context :=
  { runCtx st f with
    last := some 4913
    queue := (List.range 128).map fun i => ⟨4914 + i, 21000⟩
    queueSlow := true
    pace := true }
def fullR : State := (withRun root (fullCtx .running none)).setRootRec 2 (rec42 .running none Causes.none)
def fullStopped (cs : Causes) : State :=
  (withRun root { fullCtx .freezing (some 5042) with causes := cs }).setRootRec 2 (rec42 .freezing (some 5042) cs)

/-- The 129th waiting step overruns the root's own context (R67, R75), which takes the record to FAULTED (R148). -/
theorem test_issue_overruns :
    let t := after (.stepIssue 2) fullR
    (t.ctx 2).fault = some .overrun ∧ (t.rootRec 2).fault = some ⟨.overrun, 0x0000#16, some 4913⟩ ∧
    (t.egress 1).urgent = [⟨2, .freeze 5043 { Causes.none with fault := true } false⟩] := by decide +kernel
theorem test_resume_overruns :
    let r := req .cmd 0x0E#8 2#8 3#8 0#32
    let t := after (.cmdContinue r) (asked (fullStopped control) r)
    (t.rootRec 2).state = .faulted ∧ answer t = status .ok 2#32 := by decide +kernel

/-- P2 frozen at the root before the last step there is. -/
def stoppedLast (cs : Causes) : State :=
  (withRun root
    { frozenCtx with expected := stepMax, last := some (stepMax - 1), freeze := some stepMax, causes := cs }).setRootRec 2
    { rec42 .frozen (some stepMax) cs with lastIssued := some (stepMax - 1) }

/-- A resume that issues step 2^40 − 2 ends in FREEZING at 2^40 − 1 with LIMIT (R142, R143). -/
theorem test_resume_reaches_the_limit :
    let r := req .cmd 0x0E#8 2#8 3#8 0#32
    let t := after (.cmdContinue r) (asked (stoppedLast control) r)
    (t.rootRec 2).state = .freezing ∧ (t.rootRec 2).freeze = some freezeMax ∧
    (t.rootRec 2).causes = { Causes.none with limit := true } ∧ answer t = status .ok 3#32 := by decide +kernel
theorem test_continue_is_refused_when_running :
    let r := req .cmd 0x0E#8 2#8 3#8 0#32
    answer (after (.cmdContinue r) (asked runR r)) = status .badState 0#32 := by decide +kernel
theorem test_abort_ends_the_run :
    let r := req .cmd 0x0E#8 2#8 4#8 0#32
    let t := after (.cmdAbort r) (asked runR r)
    (t.rootRec 2).state = .idle ∧ (t.ctx 2).state = .idle := by decide +kernel
theorem test_cmdSwap_goes_down :
    let r := req .cmd 0x0E#8 2#8 5#8 0#32
    let s := asked (runR.setRootRec 2 { rec42 .running none Causes.none with swapStep := 5050 }) r
    let t := after (.cmdSwap r) s
    (t.egress 1).urgent = [⟨2, .swap 5050⟩] ∧ (t.rootRec 2).pendingSwap = some 5050 := by decide +kernel

/-! The management agent -/

theorem test_resetHub_keeps_the_link :
    let r := req .cmd 0x02#8 0#8 1#8 0#32
    let t := after (.cmdResetHub r) (asked run3 r)
    (t.port .u).state = .up ∧ (t.ctx 2).state = .idle ∧ t.ma.resetCause = .hubReset := by decide +kernel
theorem test_retrain_leaves_failed :
    let r := req .cmd 0x03#8 4#8 1#8 0#32
    let s := asked (hub3.setPort (.d 4) { Port.reset with state := .failed, attempts := 15, signal := true }) r
    let t := after (.cmdRetrain r) s
    (t.port (.d 4)).state = .training ∧ (t.port (.d 4)).attempts = 0 := by decide +kernel
theorem test_flush_counts_the_cells :
    let r := req .cmd 0x03#8 1#8 2#8 0#32
    let s := asked (hub3.setEgress 1 ⟨[⟨2, .abort⟩], [⟨2, 1, 2, 3⟩, ⟨2, 2, 2, 3⟩], [], false⟩) r
    answer (after (.cmdFlush r) s) = status .ok 3#32 := by decide +kernel
theorem test_pop_takes_the_oldest :
    let r := req .pop 0x0B#8 0#8 0#8 0#32
    let s := asked (hub3.setTu { hub3.tu with captures := [⟨1, 2, 3, 4⟩, ⟨5, 2, 6, 7⟩] }) r
    (after (.capturePop r) s).tu.captures = [⟨5, 2, 6, 7⟩] := by decide +kernel
theorem test_trigger_target_is_clamped :
    let r := req .write 0x09#8 2#8 3#8 0#32
    answer (after (.triggerWrite r) (asked hub3 r)) = status .clamped 1#32 := by decide +kernel
theorem test_stall_partition_in_use :
    let r := req .write 0x0A#8 1#8 1#8 2#32
    answer (after (.stallWrite r) (asked run3 r)) = status .inUse 0#32 := by decide +kernel
theorem test_output_rest_level_drives :
    let r := req .write 0x08#8 8#8 3#8 1#32
    ((after (.outputWrite r) (asked hub3 r)).out 8).level = true := by decide +kernel
theorem test_hub_budget_in_use :
    let r := req .write 0x02#8 0#8 0#8 512#32
    answer (after (.hubWrite r) (asked run3 r)) = status .inUse 0#32 := by decide +kernel
theorem test_counter_is_cleared :
    let r := req .write 0x0C#8 48#8 0#8 9#32
    let s := asked (hub3.setPort .u { hub3.port .u with counters := tab fun _ => 5 }) r
    (after (.counterWrite r) s).counter .u 0 = 0 := by decide +kernel
theorem test_latches_are_cleared_by_ones :
    let r := req .write 0x0D#8 0#8 0#8 3#32
    (after (.eventsWrite r) (asked (hub3.setMa { hub3.ma with latches := 7#16 }) r)).ma.latches = 4#16 := by decide +kernel
/-- Duty code 0 of entry 20 is answered CLAMPED with VALUE 1 (section 5.8). -/
theorem test_duty_zero_is_clamped :
    let r := req .write 0x07#8 20#8 3#8 0#32
    answer (after (.managementWrite r) (asked hub3 r)) = status .clamped 1#32 := by decide +kernel
/-- Period 1 is refused with BAD_VALUE (section 5.8). -/
theorem test_period_one_is_refused :
    let r := req .write 0x07#8 4#8 1#8 1#32
    answer (after (.managementWrite r) (asked hub3 r)) = status .badValue 0#32 := by decide +kernel

/-! A state and operands that meet the hypotheses of each obligation. A theorem of several parts has one for each clause. -/

/-- P2 local and routed to D1, at rest at hub 3 and at the root. -/
def idle3 : State := withRun hub3 Context.reset
def idleR : State := withRun root Context.reset

/-- A context in FAULTED. -/
def faulted3 : State := withRun hub3 { runCtx .faulted none with queue := [], fault := some .overrun }

/-- Hub 3 with link D4 as given. -/
def withD4 (p : Port) : State := hub3.setPort (.d 4) p

/-- A D port of an attempt in progress. -/
def trying (st : PortState) : Port := { Port.reset with state := st, signal := true }

theorem witness_EveryCommandCompletes :
    State.reset.Settled ∧
    (let s := run3.setMa { run3.ma with enables := 0x0010#16 }
     let t := after .lossOfLock s
     s.Settled ∧ s.latched .refLost = false ∧ t.latched .refLost = true ∧ t.ma.enables.getLsbD Event.refLost.code = true ∧
       t.upstreamOpen = true ∧ t.cf.noteQ.length < 16) ∧
    (let s := hub3.setPort .u { hub3.port .u with counters := tab fun _ => 65534 }
     s.Settled ∧ s.counter .u kUnknownKind < counterMax ∧
       (after (.unknownKind .u 0x77#8) s).counter .u kUnknownKind = counterMax) := by decide +kernel

/-- Each timer one RP before its moment, and the step before its time. -/
def early : State :=
  ((withD4 { trying .training with windowFrom := 15905 }).setPort (.d 5) (trying .measuring)).setDLink 5
    ⟨⟨0, some 18977, []⟩, 15905, false, 0x0000#16⟩

theorem witness_EarlyRowsDoNothing :
    (State.reset.setRef ⟨.settling, 8191, false⟩).Ready ∧ (State.reset.setRef ⟨.settling, 8191, false⟩).ref.timer < 8192 ∧
    State.reset.Ready ∧ State.reset.locked = false ∧ early.Ready ∧
    early.now < (early.port (.d 4)).windowFrom + 4096 ∧
    (∀ a ∈ (early.dlink 5).measure.sentAt, early.now < a + 1024) ∧
    early.now < (early.dlink 5).refreshFrom + 4096 ∧ early.transmits (.d 1) = true ∧
    (hub3.setPort (.d 1) { upPort 32 40 with nextSlot := 20001 }).now
      < ((hub3.setPort (.d 1) { upPort 32 40 with nextSlot := 20001 }).port (.d 1)).nextSlot ∧
    (hub3.setPort .u { hub3.port .u with nextSlot := 20001 }).slotDueU = false ∧
    (∀ e ∈ ((withRun hub3 { runCtx .running none with queue := [⟨5041, 20001⟩] }).ctx 2).queue.head?,
      hub3.now < e.expiry) ∧
    (withRun hub3 { frozenCtx with frozenMark := 20000 }).now
      ≤ ((withRun hub3 { frozenCtx with frozenMark := 20000 }).ctx 2).frozenMark ∧
    (∃ f ∈ ((frozenR control).rootRec 2).freeze, f ≤ ((frozenR control).rootRec 2).next) ∧
    ({ rec42 .freezing (some 5042) control with lastIssueTime := some 18977 } : RootRec).isOver 5042 1024 20000 = false := by
  decide +kernel

/-- One RP counted in a run at hub 3, and at the root: states that meet the invariants, and a step from each. -/
def tick (s : State) : State := { s with pending := [.levelTakenEachRp 0#8 0#4] }

theorem witness_invariants :
    ∀ s ∈ [tick run3, tick freezing3, tick frozen3, tick runR, tick (freezingR control), tick (frozenR control)],
      s.QueuesBounded ∧ s.FieldsInRange ∧ s.StepsOrdered ∧ s.SwapsOrdered ∧ s.LinksFollow ∧ s.PaceFollows ∧
      s.HoldsAnnounced ∧ s.RootLawful ∧ s.Settled ∧ s.RootPlaced ∧ s.RootContextFollows ∧ s.LinesRest ∧
      s.pending = [.levelTakenEachRp 0#8 0#4] := by
  intro s h
  repeat' apply And.intro
  all_goals (revert s h; decide +kernel)

theorem witness_a_step_answers : ∃ t, step (tick run3) = .next t ∧ t.now = 20001 := ⟨_, rfl, by decide +kernel⟩

theorem witness_a_step_of_the_root_answers : ∃ t, step (tick runR) = .next t ∧ t.now = 20001 :=
  ⟨_, rfl, by decide +kernel⟩

theorem witness_OutputsKeepTheirLaw :
    (tick run3).mayMove (.levelTakenEachRp 0#8 0#4) 3 = false ∧ drive3.mayMove (.stepExecution 2) 5 = true := by
  decide +kernel

theorem witness_CellBytesReadBack :
    (Cell.step 2 freezeMax 4095).Fits ∧ (Cell.note (.trigger 0 0 0 stepMax counterMax)).Fits ∧ (Cell.enum 0 0 0).Fits ∧
    (Cell.run 2 .abort).Fits ∧ (Cell.note (.other note5)).Fits ∧
    (Cell.step 2 5000 6).bytes.getD 15 0#8 ≠ 0#8 ∧ (Cell.step 2 5000 6).bytes.getD 0 0#8 ≠ 0#8 ∧
    (∀ bytes ∈ [oddMreq, oddMrsp, oddNote],
      Received.ofBytes bytes ∈ [.cell (.mreq (Request.ofBytes bytes)), .cell (.mrsp (Response.ofBytes bytes)),
        .cell (.note (Note.ofBytes bytes))]) ∧
    (Cell.hold 2 none).isLaid = false ∧ (Cell.pace 2 true).mark = some true :=
  ⟨by decide +kernel, by decide +kernel, trivial, trivial, by decide +kernel, by decide +kernel, by decide +kernel,
    by decide +kernel, rfl, rfl⟩

theorem witness_ChildAddressesRoute :
    Addr.namesHub 0x0000#16 = true ∧ Addr.depth 0x0000#16 = 0 ∧ Addr.namesHub 0x40C8#16 = true ∧
      Addr.depth 0x40C8#16 = 2 := by decide +kernel

theorem witness_ClockPeriods :
    (⟨.clock, 2, 0, 63, false⟩ : DomainEntry).InRange ∧ (⟨.clock, 65535, 65535, 1, true⟩ : DomainEntry).InRange := by
  decide

theorem witness_PorstHoldsTheHub :
    (∀ b ∈ [true, false], Instr.lossOfLock ≠ .powerOnReset b) ∧ Instr.lossOfLock ≠ .porstAsserted := by decide

theorem witness_LevelsTakenEachRp :
    State.reset.Ready ∧ State.reset.ref.state = .unlocked ∧
    (State.reset.setRef ⟨.settling, 8192, false⟩).Ready ∧ hub3.Ready ∧ hub3.ref.state = .locked := by decide +kernel

theorem witness_SignalsMovePorts :
    State.reset.Ready ∧ State.reset.LinksFollow ∧ State.reset.isSource (.pair .u) = true ∧
    State.reset.ref.state = .unlocked ∧ early.Ready ∧ early.LinksFollow ∧
    (∀ x ∈ allPorts, SignalSource.pair (.d 5) = .pair x → early.isUp x = false) ∧
    (early.isSource (.pair (.d 5)) = true → early.ref.state ≠ .locked) := by decide +kernel

/-- U of hub 3 outside UP while the reference is LOCKED, a faulted context waiting for its ABORT. -/
theorem witness_SignalsMovePorts_at_U :
    (∀ st ∈ [PortState.training, .waitEnum, .failed],
      (let s := faulted3.setLp { faulted3.lp with dports := tab fun _ => Port.reset, uport := trying st }
       s.Ready ∧ s.LinksFollow ∧ s.isRoot = false ∧ s.locked = true ∧ s.isUp .u = false ∧ s.PaceFollows ∧
         s.HoldsAnnounced)) := by decide +kernel

theorem witness_LossOfLockStrikesAll :
    ∀ s ∈ [run3, runR], s.Ready ∧ s.LinksFollow ∧ s.PaceFollows ∧ s.HoldsAnnounced ∧ s.locked = true := by
  decide +kernel

theorem witness_LossOfLockStrikesAll_runs :
    runR.isRoot = true ∧ (runR.ctx 2).inRun = true ∧ (runR.rootRec 2).state = .running ∧ run3.isRoot = false ∧
    runR.RootContextFollows ∧ runR.isUp (.d 1) = true := by decide +kernel

theorem witness_TimersEnd :
    (State.reset.setRef ⟨.settling, 8192, false⟩).Ready ∧ (State.reset.setRef ⟨.settling, 8192, false⟩).LinksFollow ∧
    (withD4 { trying .training with windowFrom := 15904 }).Ready ∧
    (withD4 { trying .training with windowFrom := 15904 }).locked = true ∧
    ((withD4 { trying .training with windowFrom := 15904 }).port (.d 4)).windowFrom + 4096 ≤ 20000 ∧
    (let s := (withD4 (trying .measuring)).setDLink 4 ⟨⟨0, some 18976, []⟩, 0, false, 0x0000#16⟩
     s.Ready ∧ s.locked = true ∧ ∃ b ∈ (s.dlink 4).measure.sentAt, b + 1024 ≤ s.now) ∧
    hub3.isUp (.d 1) = true ∧ (hub3.dlink 1).refreshFrom + 4096 ≤ hub3.now := by decide +kernel

theorem witness_CellsOutsideAlignment :
    hub3.Ready ∧ (Instr.badCell (.d 0) [1#8]).arrival = some (.d 0) ∧ (hub3.port (.d 0)).state = .down ∧
    (withD4 (trying .failed)).Ready ∧ ((withD4 (trying .failed)).port (.d 4)).state = .failed ∧
    (withD4 (trying .training)).Ready ∧ (Instr.echoBack (.d 4) 0).arrival = some (.d 4) ∧
    (Instr.echoBack (.d 4) 0).goodCell ≠ some (.d 4, .idle) := by decide +kernel

theorem witness_TrainingAligns :
    (withD4 { trying .training with trainRun := 62 }).Ready ∧
    (withD4 { trying .training with trainRun := 63 }).Ready ∧
    (hub3.setPort .u { trying .training with trainRun := 63 }).Ready ∧
    ((hub3.setPort .u { trying .training with trainRun := 63 }).port .u).state = .training := by decide +kernel

theorem witness_BadCellsCount :
    hub3.Ready ∧ checkPasses [1#8] = false ∧ hub3.aligned .u = true ∧ (hub3.port .u).badRun < 3 ∧
    (withD4 { trying .measuring with badRun := 3 }).Ready ∧
    (withD4 { trying .measuring with badRun := 3 }).aligned (.d 4) = true ∧
    (withD4 { trying .measuring with badRun := 3 }).isUp (.d 4) = false := by decide +kernel

theorem witness_GoodCellsJudged :
    hub3.Ready ∧ hub3.LinksFollow ∧ hub3.aligned .u = true ∧ (Instr.idle .u).goodCell = some (.u, .idle) ∧
    (withD4 (trying .measuring)).Ready ∧ (withD4 (trying .measuring)).LinksFollow ∧ (withD4 (trying .measuring)).aligned (.d 4) = true ∧
    (Instr.pace (.d 4) 0 true).goodCell = some (.d 4, .pace) ∧
    (withD4 (trying .measuring)).conflicts (.d 4) .pace = false ∧
    (withD4 (trying .measuring)).delivers (.d 4) .pace = false ∧
    Kind.ofCode 0x77#8 = none ∧ (withD4 (trying .measuring)).isUp (.d 4) = false ∧
    (Instr.echo (.d 4) 0).goodCell = some (.d 4, .echo) ∧
    (withD4 (trying .measuring)).conflicts (.d 4) .echo = true := by decide +kernel

theorem witness_EchoesMeasureLinks :
    [4, 1024] ≠ ([] : List Nat) ∧ (withD4 (trying .measuring)).Ready ∧
    ((withD4 (trying .measuring)).port (.d 4)).state = .measuring ∧ hub3.Ready ∧ hub3.isRoot = false ∧
    (hub3.port .u).state = .up ∧ ((hub3.setPort .u (trying .waitEnum)).port .u).state = .waitEnum := by decide +kernel

/-- Hub 3 with a position that is about to move, all its D ports in DOWN. -/
def waiting3 : State := (hub3.setPort .u (trying .waitEnum)).setLp
  { (hub3.setPort .u (trying .waitEnum)).lp with dports := tab fun _ => Port.reset }

theorem witness_EnumsSetPosition :
    waiting3.Ready ∧ waiting3.isRoot = false ∧ waiting3.LinksFollow ∧ (waiting3.port .u).state = .waitEnum ∧
    enumValid 0x20C0#16 1 40 = true ∧ enumValid 0x20C0#16 2 40 = false ∧
    hub3.Ready ∧ hub3.isRoot = false ∧ hub3.LinksFollow ∧ (hub3.port .u).state = .up ∧
    hub3.lp.address = some 0x20C0#16 ∧ hub3.lp.depth = some 1 ∧ hub3.lp.pathLat = 40 ∧
    enumValid 0x20C0#16 1 16343 = true ∧
    (hub3.lp.address, hub3.lp.depth, hub3.lp.pathLat) ≠ (some 0x20C0#16, some 1, 16343) ∧
    (∀ n : Fin 6, hub3.isUp (.d n) = true → 16343 + (hub3.port (.d n)).linkLat ≤ 16383) ∧
    enumValid 0x20C0#16 1 16344 = true ∧ 16344 + (hub3.port (.d 1)).linkLat ≤ 16383 ∧
    16383 < 16344 + (hub3.port (.d 2)).linkLat ∧ hub3.isUp (.d 2) = true ∧
    enumValid 0x60C8#16 3 41 = true ∧ (run3.ctx 2).inRun = true ∧ run3.inMask 2 1 = true ∧
    run3.isUp (.d 1) = true := by decide +kernel

theorem witness_ChildLinkLoss :
    run3.Ready ∧ run3.isRoot = false ∧ run3.isUp (.d 1) = true ∧ run3.PaceFollows ∧ run3.HoldsAnnounced ∧
    checkPasses [1#8] = false ∧
    (let s := run3.setPort (.d 1) { upPort 32 40 with badRun := 3 }
     s.Ready ∧ s.isUp (.d 1) = true ∧ s.PaceFollows ∧ s.HoldsAnnounced ∧ 3 ≤ (s.port (.d 1)).badRun) ∧
    (Instr.abort (.d 1) 2).goodCell = some (.d 1, .abort) ∧ Kind.abort.direction = .down := by decide +kernel

theorem witness_RootLinkLossFaultsRuns :
    runR.Ready ∧ runR.isRoot = true ∧ runR.isUp (.d 1) = true ∧ runR.inMask 2 1 = true ∧
    (runR.ctx 2).inRun = true ∧ (runR.rootRec 2).state = .running ∧
    (let s := runR.setPort (.d 1) { upPort 32 0 with badRun := 3 }
     s.Ready ∧ s.isUp (.d 1) = true ∧ 3 ≤ (s.port (.d 1)).badRun ∧ checkPasses [1#8] = false) ∧
    (Instr.abort (.d 1) 2).goodCell = some (.d 1, .abort) ∧ Kind.abort.direction = .down := by decide +kernel

theorem witness_UplinkLoss :
    run3.Ready ∧ run3.isRoot = false ∧ run3.isUp .u = true ∧ run3.LinksFollow ∧ run3.PaceFollows ∧
    run3.HoldsAnnounced ∧
    (let s := run3.setPort .u { run3.port .u with badRun := 3 }
     s.Ready ∧ s.isUp .u = true ∧ s.LinksFollow ∧ s.PaceFollows ∧ s.HoldsAnnounced ∧ 3 ≤ (s.port .u).badRun) ∧
    (Instr.echoBack .u 0).goodCell = some (.u, .echoBack) ∧ Kind.echoBack.direction = .up := by decide +kernel

theorem witness_ControllerLoss :
    root.Ready ∧ root.isRoot = true ∧ root.isUp .u = true ∧
    3 ≤ ((root.setPort .u { root.port .u with badRun := 3 }).port .u).badRun ∧
    (Instr.echo .u 0).goodCell = some (.u, .echo) ∧ root.conflicts .u .echo = true := by decide +kernel

/-- A hold below the budget, one that is short, and a step received where the partition is not local. -/
theorem witness_StepsTaken :
    run3.InService ∧ run3.PaceFollows ∧ (run3.ctx 2).state = .running ∧
    run3.faultOf 2 (.step .u 2 5042 2) = none ∧ run3.isShort 984 = false ∧ run3.isShort 985 = true ∧
    freezing3.faultOf 2 (.step .u 2 5042 2) = none ∧
    (let s := (run3.setRoute 2 ⟨2#6, false⟩).setCtx 2 { runCtx .running none with last := some 5041, queue := [] }
     s.InService ∧ s.PaceFollows ∧ s.faultOf 2 (.step .u 2 5042 2) = none) := by decide +kernel

theorem witness_UnfitCellsFault :
    run3.InService ∧ run3.PaceFollows ∧ (run3.ctx 2).inRun = true ∧ (Instr.step .u 2 5043 2).runCell = some 2 ∧
    run3.faultOf 2 (.step .u 2 5043 2) = some .stepGap ∧
    frozen3.InService ∧ frozen3.PaceFollows ∧ frozen3.faultOf 2 (.step .u 2 5042 2) = some .protocol ∧
    run3.faultOf 2 (.freeze .u 2 5041 control false) = some .protocol ∧
    run3.faultOf 2 (.resume .u 2 5042) = some .protocol ∧
    (withRun hub3 { runCtx .running none with queue := List.replicate 128 ⟨5041, 20000⟩ }).faultOf 2
      (.step .u 2 5042 2) = some .overrun := by decide +kernel

theorem witness_StoppedContextsOnlyForward :
    idle3.InService ∧ idle3.PaceFollows ∧ (Instr.step .u 2 5042 2).runCell = some 2 ∧
    (Instr.step .u 2 5042 2).begins = false ∧ (idle3.ctx 2).state = .idle ∧
    faulted3.InService ∧ faulted3.PaceFollows ∧ (faulted3.ctx 2).state = .faulted := by decide +kernel

theorem witness_FreezesResumesAndSwapsTaken :
    run3.InService ∧ (run3.ctx 2).inRun = true ∧ (run3.ctx 2).expected ≤ 5042 ∧
    freezing3.InService ∧ (freezing3.ctx 2).inRun = true ∧ (freezing3.ctx 2).state = .freezing ∧
    (freezing3.ctx 2).freeze = some 5064 := by decide +kernel

theorem witness_StartsAndAbortsTaken :
    idle3.InService ∧ idle3.PaceFollows ∧ run3.InService ∧ run3.PaceFollows := by decide +kernel

/-- A request to this hub, to a hub below on a link that is UP, to one on a link that is not, elsewhere, and to all. -/
theorem witness_RequestsAreRouted :
    hub3.Ready ∧ (hub3.port .u).state = .up ∧ hub3.routeOf 0x20C0#16 = .here ∧
    hub3.routeOf 0x40C8#16 = .below 1 ∧ hub3.isUp (.d 1) = true ∧
    hub3.routeOf 0x40C0#16 = .below 0 ∧ hub3.isUp (.d 0) = false ∧
    hub3.routeOf 0x0000#16 = .elsewhere ∧ hub3.routeOf 0xE000#16 = .broadcast := by decide +kernel

theorem witness_SummariesAccepted :
    run3.Ready ∧ run3.isUp (.d 2) = true ∧ (Instr.pace (.d 2) 2 true).reports = some (2, 2) ∧
    run3.inMask 2 2 = false ∧ idle3.Ready ∧ idle3.isUp (.d 1) = true ∧
    (Instr.pace (.d 1) 2 true).reports = some (1, 2) ∧ idle3.inMask 2 1 = true ∧ (idle3.ctx 2).state = .idle ∧
    run3.isRoot = false ∧ run3.isUp (.d 1) = true ∧ run3.inMask 2 1 = true ∧ (run3.ctx 2).state ≠ .idle := by
  decide +kernel

theorem witness_HoldsMerge :
    run3.Ready ∧ run3.isRoot = false ∧ run3.isUp (.d 1) = true ∧ run3.inMask 2 1 = true ∧
    (run3.ctx 2).state ≠ .idle ∧ run3.HoldsAnnounced := by decide +kernel

theorem witness_PacesMerge :
    ∀ s ∈ [run3, runR], s.Ready ∧ s.isUp (.d 1) = true ∧ s.inMask 2 1 = true ∧ (s.ctx 2).state ≠ .idle := by
  decide +kernel

theorem witness_NotesAndResponsesPass :
    hub3.Ready ∧ hub3.isUp (.d 1) = true ∧
    (hub3.setCf { hub3.cf with noteQ := List.replicate 16 (.event 0 .linkUp) }).Ready := by decide +kernel

theorem witness_DownSlotsServe :
    ∀ s ∈ [run3, runR], s.Ready ∧ s.PaceFollows ∧ s.transmits (.d 1) = true ∧ (s.port (.d 1)).state = .up ∧
      (s.port (.d 1)).nextSlot ≤ s.now := by decide +kernel

theorem witness_OtherSlotsServe :
    (withD4 (trying .measuring)).Ready ∧ (withD4 (trying .measuring)).transmits (.d 4) = true ∧
    ((withD4 (trying .measuring)).port (.d 4)).nextSlot ≤ 20000 ∧
    ((withD4 (trying .measuring)).port (.d 4)).state ≠ .up ∧
    hub3.Ready ∧ hub3.transmits .u = true ∧ hub3.slotDueU = true ∧
    (hub3.setPort .u (trying .waitEnum)).transmits .u = true ∧ (hub3.setPort .u (trying .training)).transmits .u = true ∧
    root.transmits .u = true ∧ root.slotDueU = true := by decide +kernel

theorem witness_SummariesAreServed :
    table39.InService ∧ table39.transmits .u = true ∧ table39.slotDueU = true ∧
    (∀ e ∈ table39.lp.echoes.head?, table39.now < e.due) ∧
    (2 : Part) = Fin.ofNat 4 (table39.cf.lastServed.val + 1 + 0) ∧ (table39.slots 2).pending = true ∧
    (∀ j : Fin 4, j < (0 : Fin 4) → (table39.slots (Fin.ofNat 4 (table39.cf.lastServed.val + 1 + j.val))).pending = false) := by
  decide +kernel

theorem witness_ExecutionsAdvance :
    ∀ s ∈ [run3, freezing3, runR], s.Ready ∧ s.PaceFollows ∧ s.locked = true ∧ (s.route 2).isLocal = true ∧
      (s.ctx 2).executes = true ∧ (s.ctx 2).queue = [⟨5041, 20000⟩] ∧ s.quiet 2 = true := by decide +kernel

theorem witness_ExecutionsSampleLines :
    table66.Ready ∧ table66.PaceFollows ∧ table66.RootLawful ∧ table66.locked = true ∧ (table66.route 2).isLocal = true ∧
    (table66.ctx 2).executes = true ∧ (table66.ctx 2).queue = [⟨5034, 20000⟩] ∧ table66.firing 2 = [2] ∧
    table66.HoldsAnnounced ∧
    (let s := runR.setTrig 2 ⟨true, 2, .low, 1, true, true, 1, 0, 0⟩
     s.Ready ∧ s.PaceFollows ∧ s.RootLawful ∧ s.isRoot = true ∧ (s.rootRec 2).state = .running ∧
       (s.rootRec 2).epoch ≤ 5041 ∧ s.firing 2 = [2] ∧ (s.rootRec 2).haltMask.getLsbD 1 = true) ∧
    (let s := runR.setStall 1 ⟨true, 2, true, true⟩
     let t := after (.stepExecution 2) s
     s.Ready ∧ s.PaceFollows ∧ s.RootLawful ∧ s.HoldsAnnounced ∧ (s.table 2).stamp = none ∧ (t.table 2).stamp ≠ none ∧
       (t.rootRec 2).causes.stall = true) := by
  repeat' apply And.intro
  all_goals decide +kernel

theorem witness_FrozenContextsSampleStalls :
    table76.Ready ∧ table76.locked = true ∧ (table76.route 2).isLocal = true ∧ (table76.ctx 2).state = .frozen ∧
    (table76.ctx 2).frozenMark < table76.now ∧ table76.isRoot = false ∧ table76.HoldsAnnounced ∧
    (table76.stallsMoving 2 5041).length = 1 := by decide +kernel

/-- P2 frozen at the root by its own stall line 1, which is found released. -/
theorem witness_FrozenContextsSampleStalls_at_the_root :
    (let s := ((frozenR stall).setStall 1 ⟨true, 2, false, true⟩).setTable 2
      ⟨tab fun i => if i = 1 then some 5021 else none, some 5021⟩
     let t := after (.frozenStallSampling 2) s
     s.Ready ∧ s.locked = true ∧ (s.ctx 2).state = .frozen ∧ (s.ctx 2).frozenMark < s.now ∧ s.HoldsAnnounced ∧
       s.RootLawful ∧ (s.rootRec 2).stands = true ∧ (s.table 2).stamp ≠ none ∧ (t.table 2).stamp = none ∧
       (t.rootRec 2).state = .running) := by
  repeat' apply And.intro
  all_goals decide +kernel

/-- A record whose next step is the last of the number range. -/
def lastStep : State :=
  ((root.setRoute 2 ⟨2#6, true⟩).setCtx 2
    { Context.reset with state := .running, expected := stepMax, last := some (stepMax - 1) }).setRootRec 2
    { rec42 .running none Causes.none with lastIssued := some (stepMax - 1) }

/-- The same record once it counts to the end of the range. -/
def lastCounted : State :=
  (lastStep.setCtx 2 { lastStep.ctx 2 with state := .freezing, freeze := some freezeMax }).setRootRec 2
    { lastStep.rootRec 2 with state := .freezing, freeze := some freezeMax }

theorem witness_StepsAreIssued :
    (∀ s ∈ [runR, freezingR control, lastStep, lastCounted, fullR],
      s.Ready ∧ s.isRoot = true ∧ s.locked = true ∧ s.RootPlaced ∧ s.PaceFollows ∧
      (s.rootRec 2).nextIssue = some 20000 ∧ (∀ f ∈ (s.rootRec 2).freeze, (s.rootRec 2).next < f) ∧
      ∀ c ∈ s.faultOf 2 (.step .u 2 (s.rootRec 2).next 0), c = .overrun) ∧
    runR.issueOverruns 2 = false ∧ fullR.issueOverruns 2 = true ∧ (fullR.rootRec 2).state = .running ∧
    (runR.rootRec 2).state = .running ∧ (runR.ctx 2).state = .running ∧ (lastStep.rootRec 2).next = stepMax ∧
    (lastCounted.rootRec 2).next = stepMax ∧ (lastCounted.rootRec 2).freeze ≠ none := by
  decide +kernel

theorem witness_RecordsFreeze :
    (let s := runR.setRootRec 2 (rec42 .freezing (some 5042) control)
     s.Ready ∧ s.isRoot = true ∧ s.locked = true ∧ (s.rootRec 2).state = .freezing ∧
      (s.rootRec 2).freeze = some 5042 ∧ (s.rootRec 2).isOver 5042 s.ma.hub.budget s.now = true) := by decide +kernel

theorem witness_RootTakesHaltsAndFaults :
    ∀ s ∈ [runR, freezingR control, frozenR control],
      s.Ready ∧ s.isRoot = true ∧ s.isUp (.d 1) = true ∧ s.inMask 2 1 = true ∧ s.RootContextFollows ∧
      s.StepsOrdered ∧ s.RootLawful ∧ (s.rootRec 2).state ≠ .idle := by
  intro s h
  repeat' apply And.intro
  all_goals (revert s h; decide +kernel)

/-- P2 stopped at the root by a hold of link D1. -/
def held (s : State) : State := s.setTable 2 ⟨tab fun i => if i = 5 then some 4990 else none, some 4990⟩
def heldR : State := held (frozenR stall)

theorem witness_RootTakesHolds :
    ∀ s ∈ [runR, frozenR control, heldR, held (fullStopped stall), held (stoppedLast stall)],
      s.Ready ∧ s.isRoot = true ∧ s.isUp (.d 1) = true ∧ s.inMask 2 1 = true ∧ s.RootContextFollows ∧ s.RootPlaced ∧
      s.StepsOrdered ∧ s.RootLawful ∧ s.HoldsAnnounced ∧ s.PaceFollows ∧ (s.rootRec 2).state ≠ .idle := by
  intro s h
  repeat' apply And.intro
  all_goals (revert s h; decide +kernel)

/-- A command of code `f` to root record 2. -/
def cmd (f : BitVec 8) : Request := req .cmd 0x0E#8 2#8 f 0#32

theorem witness_CmdStartAndAbort :
    (∀ s ∈ [asked idleR (cmd 1#8)],
      s.isRoot = true ∧ s.PaceFollows ∧ s.RootContextFollows ∧ s.RootLawful ∧ s.Takes .start (cmd 1#8) ∧
      (s.rootRec 2).state = .idle ∧ (s.rootRec 2).epoch ≤ stepMax) ∧
    (∀ s ∈ [asked runR (cmd 4#8)],
      s.isRoot = true ∧ s.PaceFollows ∧ s.RootContextFollows ∧ s.RootLawful ∧ s.Takes .abort (cmd 4#8)) := by
  constructor <;> intro s h
  all_goals repeat' apply And.intro
  all_goals (revert s h; decide +kernel)

theorem witness_CmdPauseAndSwap :
    (∀ s ∈ [asked runR (cmd 2#8), asked (freezingR stall) (cmd 2#8), asked (frozenR stall) (cmd 2#8)],
      s.isRoot = true ∧ s.RootContextFollows ∧ s.StepsOrdered ∧ s.RootLawful ∧ s.Takes .pause (cmd 2#8)) ∧
    (∀ s ∈ [asked (runR.setRootRec 2 { rec42 .running none Causes.none with swapStep := 5042 }) (cmd 5#8)],
      s.isRoot = true ∧ s.RootContextFollows ∧ s.StepsOrdered ∧ s.RootLawful ∧ s.Takes .swap (cmd 5#8) ∧
      (s.rootRec 2).state = .running ∧ (s.rootRec 2).swapStep ≤ stepMax ∧ (s.rootRec 2).pendingSwap = none ∧
      (s.rootRec 2).next ≤ (s.rootRec 2).swapStep) ∧
    (∀ s ∈ [asked idleR (cmd 2#8)],
      s.isRoot = true ∧ s.RootContextFollows ∧ s.StepsOrdered ∧ s.RootLawful ∧ s.Takes .pause (cmd 2#8) ∧
      (s.rootRec 2).state = .idle) := by
  refine ⟨?_, ?_, ?_⟩ <;> intro s h
  all_goals repeat' apply And.intro
  all_goals (revert s h; decide +kernel)

theorem witness_CmdContinueResumes :
    ∀ s ∈ [asked (frozenR control) (cmd 3#8), asked (freezingR control) (cmd 3#8), asked heldR (cmd 3#8),
        asked (fullStopped control) (cmd 3#8), asked (stoppedLast control) (cmd 3#8),
        asked ((frozenR control).setRootRec 2 { rec42 .frozen (some 5042) control with count := 3 }) (cmd 3#8)],
      s.Takes .continue (cmd 3#8) ∧ s.isRoot = true ∧ s.RootContextFollows ∧ s.RootPlaced ∧ s.StepsOrdered ∧
      s.RootLawful ∧ s.PaceFollows ∧ (s.rootRec 2).stands = true ∧ (s.rootRec 2).causes.limit = false := by
  intro s h
  repeat' apply And.intro
  all_goals (revert s h; decide +kernel)

/-- Each command to a record that refuses it. -/
theorem witness_RootCommandsRefused :
    (asked runR (cmd 1#8)).Takes .start (cmd 1#8) ∧ (runR.rootRec 2).state ≠ .idle ∧
    (asked (idleR.setRootRec 2 { RootRec.reset with epoch := freezeMax }) (cmd 1#8)).Takes .start (cmd 1#8) ∧
    (asked runR (cmd 3#8)).Takes .continue (cmd 3#8) ∧
    (asked (freezingR { control with limit := true }) (cmd 3#8)).Takes .continue (cmd 3#8) ∧
    ((freezingR { control with limit := true }).rootRec 2).stands = true ∧
    (asked runR (cmd 5#8)).Takes .swap (cmd 5#8) ∧ (runR.rootRec 2).swapStep < (runR.rootRec 2).next := by
  decide +kernel

/-- A request that no row but MANAGEMENT_WRITE takes, for each refusal. -/
theorem witness_RequestsAreJudged :
    (∀ r ∈ [req .read 0x0F#8 0#8 0#8 0#32, req .read 0x0E#8 0#8 0#8 0#32, req .read 0x01#8 1#8 0#8 0#32,
        req .read 0x01#8 0#8 7#8 0#32],
      (asked hub3 r).Ready ∧ (Instr.managementWrite r).agentRow = some (.managementWrite, r) ∧
      (asked hub3 r).mayTake r = true ∧ r.row = .managementWrite) ∧
    indexCount 0x0F = 0 ∧ indexCount 0x01 = 1 ∧ opDefined .read 0x01 7 = false ∧
    hub3.mayTake (cmd 1#8) = false ∧ (cmd 1#8).row ≠ .pause ∧
    (let r := req .read 0x0B#8 0#8 0#8 0#32
     (asked hub3 r).Takes .managementWrite r) := by decide +kernel

/-- A READ of each object whose values are spelled out. -/
theorem witness_RequestsAreJudged_reads :
    (∀ r ∈ [req .read 0x01#8 0#8 6#8 0#32, req .read 0x05#8 2#8 8#8 0#32, req .read 0x06#8 15#8 4#8 0#32,
        req .read 0x0A#8 3#8 6#8 0#32, req .read 0x0B#8 15#8 5#8 0#32, req .read 0x0C#8 55#8 0#8 0#32,
        req .read 0x0C#8 58#8 0#8 0#32, req .read 0x0D#8 0#8 1#8 0#32],
      (asked run3 r).Takes .managementWrite r ∧ r.op = .read) ∧
    (let r := req .read 0x0E#8 3#8 17#8 0#32
     (asked runR r).Takes .managementWrite r) := by decide +kernel

/-- The last executed step of a context that has executed none is absent (R161). -/
theorem test_absent_step_reads_as_absent :
    let r := req .read 0x05#8 2#8 5#8 0#32
    answer (after (.managementWrite r) (asked idle3 r)) = status .ok 0x80000000#32 := by decide +kernel

theorem witness_HubResetValues :
    (asked run3 (req .cmd 0x02#8 0#8 1#8 0#32)).Takes .resetHub (req .cmd 0x02#8 0#8 1#8 0#32) := by decide +kernel

/-- RETRAIN and FLUSH of a link and of index 6. -/
theorem witness_LinkCommands :
    (let r := req .cmd 0x03#8 5#8 1#8 0#32
     (asked run3 r).PaceFollows ∧ (asked run3 r).Takes .retrain r ∧ (asked run3 r).isUp (.d 5) = false) ∧
    (let r := req .cmd 0x03#8 1#8 1#8 0#32
     (asked run3 r).PaceFollows ∧ (asked run3 r).Takes .retrain r ∧ (asked run3 r).isUp (.d 1) = true ∧
      (asked run3 r).isRoot = false ∧ (asked run3 r).LinksFollow ∧ (asked run3 r).HoldsAnnounced) ∧
    (let r := req .cmd 0x03#8 1#8 1#8 0#32
     (asked runR r).PaceFollows ∧ (asked runR r).Takes .retrain r ∧ (asked runR r).isUp (.d 1) = true ∧
      (asked runR r).isRoot = true ∧ (asked runR r).LinksFollow ∧ ((asked runR r).rootRec 2).state = .running) ∧
    (let r := req .cmd 0x03#8 1#8 2#8 0#32
     (asked run3 r).PaceFollows ∧ (asked run3 r).Takes .flush r) ∧
    (let r := req .cmd 0x03#8 6#8 1#8 0#32
     (asked run3 r).Takes .retrain r) ∧
    (let r := req .cmd 0x03#8 6#8 2#8 0#32
     (asked run3 r).Takes .flush r) := by
  refine ⟨?_, ?_, ?_, ?_, ?_, ?_⟩ <;> decide +kernel

/-- P2 held at hub 3 by stall line 1. -/
def stalled3 : State :=
  (run3.setStall 1 ⟨true, 2, false, true⟩).setTable 2 ⟨tab fun i => if i = 1 then some 5021 else none, some 5021⟩

theorem witness_BoardWrites :
    (let r := req .write 0x08#8 15#8 3#8 1#32
     (asked hub3 r).Takes .outputWrite r ∧ r.index.toNat = (15 : Fin 16).val) ∧
    (let r := req .write 0x09#8 7#8 3#8 0#32
     (asked hub3 r).Takes .triggerWrite r ∧ r.index.toNat = (7 : Fin 8).val) ∧
    (let r := req .write 0x0A#8 1#8 0#8 0#32
     (asked hub3 r).Takes .stallWrite r ∧ r.index.toNat = (1 : Fin 4).val ∧
      (asked stalled3 r).Takes .stallWrite r ∧ (asked stalled3 r).isRoot = false ∧ (asked stalled3 r).HoldsAnnounced ∧
      ((asked stalled3 r).stall 1).enable = true ∧
      (look ((asked stalled3 r).table 2).entries (stallEntry 1)).isSome = true) ∧
    (let r := req .write 0x0A#8 1#8 0#8 0#32
     let s := ((frozenR stall).setStall 1 ⟨true, 2, false, true⟩).setTable 2
      ⟨tab fun i => if i = 1 then some 5021 else none, some 5021⟩
     (asked s r).Takes .stallWrite r ∧ (asked s r).isRoot = true ∧ (asked s r).HoldsAnnounced ∧
       (s.rootRec 2).stands = true ∧ ((after (.stallWrite r) (asked s r)).table 2).stamp = none) := by
  refine ⟨?_, ?_, ?_, ?_⟩ <;> decide +kernel

theorem witness_HubWrites :
    (let r := req .write 0x02#8 0#8 0#8 64#32
     (asked hub3 r).Takes .hubWrite r) ∧
    (let r := req .write 0x0C#8 53#8 0#8 0#32
     (asked hub3 r).Takes .counterWrite r ∧ r.index.toNat = 8 * (6 : Fin 7).val + (5 : Fin 8).val ∧
       (asked hub3 r).dropsAnswer r = []) ∧
    (let r := req .write 0x0C#8 55#8 0#8 0#32
     (asked hub3 r).Takes .counterWrite r ∧ r.index.toNat = 8 * (6 : Fin 7).val + (7 : Fin 8).val) ∧
    (let r := req .write 0x0C#8 58#8 0#8 0#32
     (asked hub3 r).Takes .counterWrite r ∧ r.index.toNat = 56 + (2 : Fin 3).val) ∧
    (let r := req .write 0x0D#8 0#8 1#8 0xFFFF#32
     (asked hub3 r).Takes .eventsWrite r) ∧
    (let r := req .pop 0x0B#8 0#8 0#8 0#32
     (asked hub3 r).Takes .capturePop r) := by decide +kernel

theorem witness_ManagementRequests :
    (let r := req .write 0x04#8 2#8 0#8 63#32
     (asked idle3 r).Takes .managementWrite r ∧ ((asked idle3 r).ctx 2).state = .idle ∧
      (asked run3 r).Takes .managementWrite r) ∧
    (let r := req .write 0x06#8 15#8 0#8 3#32
     (asked hub3 r).Takes .managementWrite r ∧ r.index.toNat = (15 : Fin 16).val) ∧
    (let r := req .write 0x07#8 31#8 1#8 65535#32
     (asked hub3 r).Takes .managementWrite r ∧ r.index.toNat = 16 + (15 : Fin 16).val) ∧
    (let r := req .write 0x0E#8 2#8 11#8 400#32
     (asked idleR r).Takes .managementWrite r ∧ r.index.toNat = (2 : Part).val) := by decide +kernel

end Sys2Proof.Tests
end

section
/-! SUPPORT. What a command records while it runs: `Recording` is the relation that every raised event, counted cell and
placed EVENT note keeps, and that ends as `SameButLog` when the command settles (R165, R166, R167, R59, R42). -/

namespace Sys2Proof

/-- The code of an event is its place in Table 9-3. -/
theorem Event.all_code (e : Event) : Event.all[e.code.val]? = some e := by cases e <;> rfl

theorem Event.code_injective {e f : Event} (h : e.code.val = f.code.val) : e = f :=
  Option.some.inj (by rw [← e.all_code, h, f.all_code])

end Sys2Proof

namespace Sys2Proof.Machine

open Sys2Proof

/-! What the log's own writers leave -/

theorem eventWeight_getLsbD (e f : Event) : (eventWeight e).getLsbD f.code = decide (e = f) := by
  rw [eventWeight, ← BitVec.twoPow_eq, BitVec.getLsbD_twoPow, decide_eq_true e.code.isLt, Bool.true_and]
  exact decide_eq_decide.mpr ⟨Event.code_injective, fun h => h ▸ rfl⟩

/-- An event sets no latch but its own (R165). -/
theorem raise_latched_ne {e f : Event} (s : State) (h : e ≠ f) : (raise e s).latched f = s.latched f := by
  have hw : (s.ma.latches ||| eventWeight e).getLsbD f.code = s.ma.latches.getLsbD f.code := by
    rw [BitVec.getLsbD_or, eventWeight_getLsbD, decide_eq_false h, Bool.or_false]
  unfold raise
  split
  · rfl
  · dsimp only
    split <;> exact hw

@[simp] theorem raise_counter (e : Event) (s : State) (x : PortId) (k : Fin 8) :
    (raise e s).counter x k = s.counter x k := by
  obtain ⟨l, ns, h, -, -⟩ := raise_frame e s
  rw [h]; cases x <;> rfl

@[simp] theorem raise_hubCounter (e : Event) (s : State) (k : Fin 3) : (raise e s).hubCounter k = s.hubCounter k := by
  obtain ⟨l, ns, h, -, -⟩ := raise_frame e s
  rw [h]; rfl

@[simp] theorem raise_cf (e : Event) (s : State) : (raise e s).cf = s.cf := by
  obtain ⟨l, ns, h, -, -⟩ := raise_frame e s
  rw [h]; rfl

@[simp] theorem raise_isUp (e : Event) (s : State) (x : PortId) : (raise e s).isUp x = s.isUp x := by
  obtain ⟨l, ns, h, -, -⟩ := raise_frame e s
  simp [State.isUp, h]

/-- Counter `k` of a port set to its next value, COUNTER_SATURATED apart. -/
def countUp (x : PortId) (k : Fin 8) (s : State) : State :=
  s.setPort x { s.port x with counters := upd (s.port x).counters k (satSucc (s.counter x k)) }

theorem bump_eq_countUp (x : PortId) (k : Fin 8) (s : State) :
    bump x k s = countUp x k s ∨ bump x k s = raise .counterSaturated (countUp x k s) :=
  bump_cases x k s

@[simp] theorem countUp_sansLog (x : PortId) (k : Fin 8) (s : State) : (countUp x k s).sansLog = s.sansLog :=
  setPort_counters_sansLog x _ s

@[simp] theorem countUp_ma (x : PortId) (k : Fin 8) (s : State) : (countUp x k s).ma = s.ma := by simp [countUp]

@[simp] theorem countUp_cf (x : PortId) (k : Fin 8) (s : State) : (countUp x k s).cf = s.cf := by simp [countUp]

@[simp] theorem countUp_own (x : PortId) (k : Fin 8) (s : State) : (countUp x k s).own = s.own := by simp [countUp]

theorem countUp_counter (x y : PortId) (k j : Fin 8) (s : State) :
    (countUp x k s).counter y j = if (y, j) = (x, k) then satSucc (s.counter y j) else s.counter y j := by
  by_cases hx : x = y
  · subst hx
    by_cases hk : k = j
    · subst hk; simp [countUp, State.counter]
    · simp [countUp, State.counter, hk, Ne.symm hk]
  · simp [countUp, State.counter, hx, Ne.symm hx]

/-! The relation -/

theorem onlyEventNotes_iff {s t : State} :
    OnlyEventNotes s t ↔
      ∃ r, t.cf.noteQ = s.cf.noteQ ++ r ∧ (∀ n ∈ r, n.isEvent = true) ∧ (s.ma.enables = 0#16 → r = []) := by
  constructor
  · rintro ⟨⟨r, hr⟩, hev, hq⟩
    rw [← hr, List.drop_left] at hev
    exact ⟨r, hr.symm, hev, fun h => by simpa [← hr] using hq h⟩
  · rintro ⟨r, hr, hev, hq⟩
    rw [OnlyEventNotes, hr, List.drop_left]
    exact ⟨List.prefix_append _ _, hev, fun h => by simp [hq h]⟩

/-- `t` is `s` but for what a command in progress has recorded: the events `es`, the port counters `cs` and the hub counters
`hs`; EVENT notes alone wait to be placed, and no report. -/
structure Recording (es : List Event) (cs : List (PortId × Fin 8)) (hs : List (Fin 3)) (s t : State) : Prop where
  same : SameButLog es cs hs s t
  events : ∀ n ∈ t.own.fresh, n.isEvent = true
  quiet : s.ma.enables = 0#16 → t.own.fresh = []
  noReport : t.own.inbox = []

section
variable {es : List Event} {cs : List (PortId × Fin 8)} {hs : List (Fin 3)} {s t : State}

/-- A command begins with nothing recorded. -/
theorem Recording.start (h : s.Settled) : Recording [] [] [] s s where
  same := ⟨rfl, by simp [Logged], onlyEventNotes_iff.mpr ⟨[], by simp⟩⟩
  events := by simp [h.1]
  quiet _ := h.1
  noReport := h.2

theorem Recording.sansLog_eq (h : Recording es cs hs s t) : t.sansLog = s.sansLog := h.same.1

theorem Recording.enables_eq (h : Recording es cs hs s t) : t.ma.enables = s.ma.enables :=
  congrArg (fun u => u.ma.enables) (show t.sansLog = s.sansLog from h.sansLog_eq)

/-- The order in which events and counters are listed does not matter. -/
theorem Recording.congr {es' : List Event} {cs' : List (PortId × Fin 8)} (h : Recording es cs hs s t)
    (he : ∀ e, e ∈ es' ↔ e ∈ es) (hc : ∀ c, c ∈ cs' ↔ c ∈ cs) : Recording es' cs' hs s t := by
  refine ⟨?_, h.events, h.quiet, h.noReport⟩
  simpa only [SameButLog, Logged, he, hc] using h.same

/-- An event is raised that is to be listed, or that a full queue or counter brings. -/
theorem Recording.raise_of {es' : List Event} {e : Event} (h : Recording es cs hs s t)
    (hnew : ∀ f ∈ es', f = e ∨ f ∈ es) (hold : ∀ f ∈ es, f ∈ es')
    (he : e ∈ es' ∨ e = .counterSaturated ∨ e = .noteDrop) : Recording es' cs hs s (raise e t) := by
  obtain ⟨hsame, ⟨hset, hkept, hother, hcount, hhub⟩, hnotes⟩ := h.same
  obtain ⟨l, ns, hraise, hns, hquiet⟩ := raise_frame e t
  have hfresh : (raise e t).own.fresh = t.own.fresh ++ ns := by rw [hraise]; rfl
  refine ⟨⟨by simpa using hsame, ⟨?_, ?_, ?_, by simpa using hcount, by simpa using hhub⟩,
    by simpa [OnlyEventNotes] using hnotes⟩, ?_, ?_, ?_⟩
  · intro f hf
    rcases hnew f hf with rfl | hf
    · exact raise_latched f t
    · exact raise_keeps_latched e f t (hset f hf)
  · exact fun f hf hl => raise_keeps_latched e f t (hkept f hf hl)
  · intro f hf hn hc hd
    have hne : e ≠ f := by rintro rfl; simp_all
    rw [raise_latched_ne t hne]
    exact hother f hf (fun hm => hn (hold f hm)) hc hd
  · intro n hn
    rw [hfresh] at hn
    exact (List.mem_append.mp hn).elim (h.events n) (hns n)
  · intro hz
    rw [hfresh, h.quiet hz, hquiet (h.enables_eq.trans hz), List.append_nil]
  · rw [hraise]; exact h.noReport

theorem Recording.raise (h : Recording es cs hs s t) (e : Event) : Recording (e :: es) cs hs s (raise e t) :=
  h.raise_of (fun _ => List.mem_cons.mp) (fun _ => List.mem_cons_of_mem e) (.inl List.mem_cons_self)

/-- COUNTER_SATURATED and NOTE_DROP come beside the listed events. -/
theorem Recording.raise_beside {e : Event} (h : Recording es cs hs s t) (he : e = .counterSaturated ∨ e = .noteDrop) :
    Recording es cs hs s (Machine.raise e t) :=
  h.raise_of (fun _ => .inr) (fun _ => id) (.inr he)

/-- A counter is incremented that is to be listed, or NOTE_DROP. -/
theorem Recording.countUp_of {cs' : List (PortId × Fin 8)} {x : PortId} {k : Fin 8} (h : Recording es cs hs s t)
    (hc : ∀ c, c ≠ (.u, kNoteDrop) → (c ∈ cs' ↔ c = (x, k) ∨ c ∈ cs)) (hx : (x, k) ∉ cs ∨ (x, k) = (.u, kNoteDrop)) :
    Recording es cs' hs s (countUp x k t) := by
  obtain ⟨hsame, ⟨hset, hkept, hother, hcount, hhub⟩, hnotes⟩ := h.same
  refine ⟨⟨by simpa using hsame, ⟨?_, ?_, ?_, ?_, ?_⟩, by simpa [OnlyEventNotes] using hnotes⟩, ?_, ?_, ?_⟩
  · simpa [State.latched] using hset
  · simpa [State.latched] using hkept
  · simpa [State.latched] using hother
  · intro y hy j hj
    rw [countUp_counter, hcount y hy j hj]
    by_cases he : (y, j) = (x, k)
    · rw [if_pos he, if_pos ((hc _ hj).mpr (.inl he)), if_neg (he ▸ hx.resolve_right (he ▸ hj))]
    · simp [he, hc _ hj]
  · simpa [State.hubCounter] using hhub
  · simpa using h.events
  · simpa using h.quiet
  · simpa using h.noReport

theorem Recording.bump_of {cs' : List (PortId × Fin 8)} {x : PortId} {k : Fin 8} (h : Recording es cs hs s t)
    (hc : ∀ c, c ≠ (.u, kNoteDrop) → (c ∈ cs' ↔ c = (x, k) ∨ c ∈ cs)) (hx : (x, k) ∉ cs ∨ (x, k) = (.u, kNoteDrop)) :
    Recording es cs' hs s (bump x k t) := by
  have hcount := h.countUp_of hc hx
  rcases bump_eq_countUp x k t with hb | hb <;> rw [hb]
  · exact hcount
  · exact hcount.raise_beside (.inl rfl)

theorem Recording.bump {x : PortId} {k : Fin 8} (h : Recording es cs hs s t) (hx : (x, k) ∉ cs) :
    Recording es ((x, k) :: cs) hs s (bump x k t) :=
  h.bump_of (fun _ _ => List.mem_cons) (.inl hx)

/-- The notes and reports that wait are replaced by EVENT notes, none where no event is enabled. -/
theorem Recording.setOwn (h : Recording es cs hs s t) (v : ModelOwn) (hev : ∀ n ∈ v.fresh, n.isEvent = true)
    (hq : s.ma.enables = 0#16 → v.fresh = []) (hi : v.inbox = []) : Recording es cs hs s (t.setOwn v) :=
  ⟨h.same, hev, hq, hi⟩

/-! Closing a command -/

/-- A note that finds the queue full is counted and raised (R59), which every log allows. -/
theorem Recording.dropNote (h : Recording es cs hs s t) :
    Recording es cs hs s (Machine.raise .noteDrop (Machine.bump .u kNoteDrop t)) :=
  (h.bump_of (fun _ hc => by simp [hc]) (.inr rfl)).raise_beside (.inr rfl)

/-- An EVENT note that reaches the queue (R166). -/
theorem Recording.placeNote {n : Note} (h : Recording es cs hs s t) (hn : n.isEvent = true)
    (he : s.ma.enables ≠ 0#16) : Recording es cs hs s (placeNote n t) := by
  rcases placeNote_cases n t with ⟨-, hp⟩ | ⟨-, -, hp⟩ | ⟨-, -, hp⟩ <;> rw [hp]
  · exact h
  · obtain ⟨r, hr, hev, -⟩ := onlyEventNotes_iff.mp h.same.2.2
    refine ⟨⟨h.sansLog_eq, h.same.2.1, onlyEventNotes_iff.mpr ⟨r ++ [n], ?_, ?_, fun hz => absurd hz he⟩⟩,
      h.events, h.quiet, h.noReport⟩
    · rw [State.setCf_cf, hr, List.append_assoc]
    · intro m hm
      rcases List.mem_append.mp hm with hm | hm
      · exact hev m hm
      · exact List.mem_singleton.mp hm ▸ hn
  · exact h.dropNote

theorem Recording.placeNotes (he : s.ma.enables ≠ 0#16) :
    ∀ (l : List Note) {t : State}, (∀ n ∈ l, n.isEvent = true) → Recording es cs hs s t →
      Recording es cs hs s (l.foldl (fun u n => Machine.placeNote n u) t)
  | [], _, _, h => h
  | n :: l, _, hl, h =>
    Recording.placeNotes he l (fun m hm => hl m (List.mem_cons_of_mem n hm))
      (h.placeNote (hl n List.mem_cons_self) he)

theorem Recording.settleNotes : ∀ (k : Nat) {t : State}, Recording es cs hs s t →
    Recording es cs hs s (Machine.settleNotes k t)
  | 0, _, h => h.setOwn _ (by simp) (by simp) h.noReport
  | k + 1, t, h => by
    unfold Machine.settleNotes
    split
    · exact h
    · next hne =>
      have he : s.ma.enables ≠ 0#16 := fun hz => hne (h.quiet hz)
      refine Recording.settleNotes k (Recording.placeNotes he _ (fun n hn => ?_) ?_)
      · exact h.events n ((noteOrder_mem _ _ n).mp hn)
      · exact h.setOwn _ (by simp) (by simp) h.noReport

/-- What a command has recorded when it settles. -/
theorem Recording.settle (h : Recording es cs hs s t) : SameButLog es cs hs s (settle t) := by
  rw [Machine.settle, settleReports_nil 2 t h.noReport]
  exact (h.settleNotes 3).same

/-- Where nothing waits, a command settles at once. -/
theorem settle_of_settled (h : s.Settled) : settle s = s := by simp [Machine.settle, h.1, h.2]

/-- A row that finds PORST# high has its effect and settles. -/
theorem event_of_ready (act : State → State) (h : s.Ready) : event act s = .next (Machine.settle (act s)) := by
  simp [event, h.1]

/-- A row whose act leaves nothing unplaced has its effect alone. -/
theorem event_of_settled {act : State → State} (h : s.Ready) (ht : (act s).Settled) :
    event act s = .next (act s) := by
  rw [event_of_ready act h, settle_of_settled ht]

/-- A row whose act records, by what it records. -/
theorem event_of_recording {act : State → State} (h : s.Ready) {u : State} (ht : Recording es cs hs u (act s)) :
    ∃ t, event act s = .next t ∧ SameButLog es cs hs u t :=
  ⟨_, event_of_ready act h, ht.settle⟩

end

/-! Operations beside the log -/

/-- An operation that neither sees nor moves anything of the log. -/
structure LogBlind (act : State → State) : Prop where
  sansLog : ∀ s t, t.sansLog = s.sansLog → (act t).sansLog = (act s).sansLog
  latches : ∀ s, (act s).ma.latches = s.ma.latches
  enables : ∀ s, (act s).ma.enables = s.ma.enables
  counter : ∀ s x k, (act s).counter x k = s.counter x k
  hubCounter : ∀ s k, (act s).hubCounter k = s.hubCounter k
  noteQ : ∀ s, (act s).cf.noteQ = s.cf.noteQ
  own : ∀ s, (act s).own = s.own

/-- What was recorded before such an operation stands as recorded after it. -/
theorem Recording.map {es : List Event} {cs : List (PortId × Fin 8)} {hs : List (Fin 3)} {s t : State}
    {act : State → State} (h : Recording es cs hs s t) (ha : LogBlind act) : Recording es cs hs (act s) (act t) where
  same := by
    simpa only [SameButLog, Logged, OnlyEventNotes, State.latched, ha.latches, ha.enables, ha.counter, ha.hubCounter,
      ha.noteQ] using And.intro (ha.sansLog s t h.sansLog_eq) h.same.2
  events := by simpa only [ha.own] using h.events
  quiet := by simpa only [ha.own, ha.enables] using h.quiet
  noReport := by simpa only [ha.own] using h.noReport

theorem LogBlind.comp {f g : State → State} (hf : LogBlind f) (hg : LogBlind g) : LogBlind fun s => f (g s) where
  sansLog s t h := hf.sansLog _ _ (hg.sansLog s t h)
  latches s := (hf.latches _).trans (hg.latches s)
  enables s := (hf.enables _).trans (hg.enables s)
  counter s x k := (hf.counter _ x k).trans (hg.counter s x k)
  hubCounter s k := (hf.hubCounter _ k).trans (hg.hubCounter s k)
  noteQ s := (hf.noteQ _).trans (hg.noteQ s)
  own s := (hf.own _).trans (hg.own s)

theorem sansLog_setPort (s : State) (x : PortId) (v : Port) :
    (s.setPort x v).sansLog = s.sansLog.setPort x v.sansLog := by
  cases x with
  | u => rfl
  | d n =>
    have h : (tab fun m => (look (upd s.lp.dports n v) m).sansLog)
        = upd (tab fun m => (look s.lp.dports m).sansLog) n v.sansLog :=
      bank_ext fun m => by by_cases e : n = m <;> simp [look_upd, e]
    simp only [State.sansLog, State.setPort, State.setLp, h]

theorem sansLog_port (s : State) (x : PortId) : s.sansLog.port x = (s.port x).sansLog := by
  cases x <;> simp [State.sansLog, State.port]

/-- Two states that differ in the log alone have the same ports but for their counters. -/
theorem port_sansLog_eq {s t : State} (h : t.sansLog = s.sansLog) (x : PortId) :
    (t.port x).sansLog = (s.port x).sansLog := by
  rw [← sansLog_port, h, sansLog_port]

/-- A port is written without a look at its counters, which stay. -/
theorem LogBlind.setPort {x : PortId} {q : State → Port}
    (hc : ∀ s, (q s).counters = (s.port x).counters)
    (hq : ∀ s t, t.sansLog = s.sansLog → (q t).sansLog = (q s).sansLog) : LogBlind fun s => s.setPort x (q s) where
  sansLog s t h := by rw [sansLog_setPort, sansLog_setPort, h, hq s t h]
  latches s := by simp
  enables s := by simp
  counter s y k := by
    by_cases h : x = y
    · subst h; simp [State.counter, hc]
    · simp [State.counter, h]
  hubCounter s k := by simp [State.hubCounter]
  noteQ s := by simp
  own s := by simp

/-- A D port's work is written without a look at the log. -/
theorem LogBlind.setDLink {n : Dn} {q : State → DLink} (hq : ∀ s t, t.sansLog = s.sansLog → q t = q s) :
    LogBlind fun s => s.setDLink n (q s) where
  sansLog s t h := by
    have hd : ∀ (u : State) (v : DLink), (u.setDLink n v).sansLog = u.sansLog.setDLink n v := fun _ _ => rfl
    rw [hd, hd, h, hq s t h]
  latches s := rfl
  enables s := rfl
  counter s x k := by simp [State.counter]
  hubCounter s k := rfl
  noteQ s := rfl
  own s := rfl

/-- A link's egress queues are written without a look at the log. -/
theorem LogBlind.setEgress {n : Dn} {q : State → Egress} (hq : ∀ s t, t.sansLog = s.sansLog → q t = q s) :
    LogBlind fun s => s.setEgress n (q s) where
  sansLog s t h := by
    have hd : ∀ (u : State) (v : Egress), (u.setEgress n v).sansLog = u.sansLog.setEgress n v := fun _ _ => rfl
    rw [hd, hd, h, hq s t h]
  latches s := rfl
  enables s := rfl
  counter s x k := by simp [State.counter]
  hubCounter s k := rfl
  noteQ s := rfl
  own s := rfl

end Sys2Proof.Machine
end

section
/-! SUPPORT. What a received cell does at its port, by the port's state (R3, R5 to R7, R21 to R26), and the statements about
cells that no block takes. -/

namespace Sys2Proof.Machine

open Sys2Proof

/-! The arrival time -/

@[simp] theorem noteArrival_port (x y : PortId) (s : State) : (noteArrival x s).port y = s.port y := by
  cases x <;> cases y <;> rfl

@[simp] theorem noteArrival_isRoot (x : PortId) (s : State) : (noteArrival x s).isRoot = s.isRoot := by cases x <;> rfl

@[simp] theorem noteArrival_own (x : PortId) (s : State) : (noteArrival x s).own = s.own := by cases x <;> rfl

@[simp] theorem noteArrival_cf (x : PortId) (s : State) : (noteArrival x s).cf = s.cf := by cases x <;> rfl

@[simp] theorem noteArrival_ma (x : PortId) (s : State) : (noteArrival x s).ma = s.ma := by cases x <;> rfl

@[simp] theorem noteArrival_isUp (x y : PortId) (s : State) : (noteArrival x s).isUp y = s.isUp y := by
  simp [State.isUp]

@[simp] theorem noteArrival_conflicts (x y : PortId) (k : Kind) (s : State) :
    (noteArrival x s).conflicts y k = s.conflicts y k := by
  cases y <;> simp [State.conflicts]

@[simp] theorem noteArrival_delivers (x y : PortId) (k : Kind) (s : State) :
    (noteArrival x s).delivers y k = s.delivers y k := by
  simp only [State.delivers, noteArrival_port, noteArrival_isRoot]

theorem clearBadRun_noteArrival (x : PortId) (s : State) : clearBadRun x (noteArrival x s) = s.heard x := rfl

@[simp] theorem heard_own (x : PortId) (s : State) : (s.heard x).own = s.own := by simp [State.heard, clearBadRun]

/-- What leaves the model's own lists alone leaves nothing unplaced. -/
theorem settled_of_own {s t : State} (h : s.Settled) (ht : t.own = s.own) : t.Settled := by
  rw [State.Settled, ht]; exact h

theorem noteArrival_settled {x : PortId} {s : State} (h : s.Settled) : (noteArrival x s).Settled :=
  settled_of_own h (noteArrival_own x s)

theorem heard_settled {x : PortId} {s : State} (h : s.Settled) : (s.heard x).Settled :=
  settled_of_own h (heard_own x s)

theorem aligned_iff {x : PortId} {s : State} : s.aligned x = true ↔
    (s.port x).state = .measuring ∨ (s.port x).state = .waitEnum ∨ (s.port x).state = .up := by
  unfold State.aligned
  split <;> simp_all

/-! A cell at a port, by the port's state -/

section
variable {x : PortId} {s : State}

theorem receive_ignored (k : Kind) (act : State → State)
    (h : (s.port x).state = .down ∨ (s.port x).state = .failed) : receive x k act s = s := by
  rcases h with h | h <;> simp [receive, h]

theorem receive_training (k : Kind) (act : State → State) (h : (s.port x).state = .training) :
    receive x k act s = trainCell x (k == .idle) (noteArrival x s) := by simp [receive, h]

theorem receive_aligned (k : Kind) (act : State → State) (h : s.aligned x = true) :
    receive x k act s = judgeCell x k act (noteArrival x s) := by
  rcases aligned_iff.mp h with h | h | h <;> simp [receive, h]

theorem receiveBad_ignored (h : (s.port x).state = .down ∨ (s.port x).state = .failed) : receiveBad x s = s := by
  rcases h with h | h <;> simp [receiveBad, h]

theorem receiveBad_training (h : (s.port x).state = .training) :
    receiveBad x s = trainCell x false (noteArrival x s) := by simp [receiveBad, h]

theorem receiveBad_aligned (h : s.aligned x = true) : receiveBad x s = badAligned x (noteArrival x s) := by
  rcases aligned_iff.mp h with h | h | h <;> simp [receiveBad, h]

theorem receiveUnknown_ignored (h : (s.port x).state = .down ∨ (s.port x).state = .failed) :
    receiveUnknown x s = s := by
  rcases h with h | h <;> simp [receiveUnknown, h]

theorem receiveUnknown_training (h : (s.port x).state = .training) :
    receiveUnknown x s = trainCell x false (noteArrival x s) := by simp [receiveUnknown, h]

theorem receiveUnknown_aligned (h : s.aligned x = true) : receiveUnknown x s = bump x kUnknownKind (s.heard x) := by
  rcases aligned_iff.mp h with h | h | h <;> simp [receiveUnknown, h, clearBadRun_noteArrival]

/-- In TRAINING a cell that is no good IDLE ends the run (R21). -/
theorem trainCell_breaks : trainCell x false (noteArrival x s) =
    (noteArrival x s).setPort x { s.port x with trainRun := 0 } := by simp [trainCell]

end

/-! The rows of arriving cells -/

/-- A good cell of a defined kind is received at its port. -/
theorem exec_goodCell {c : Instr} {x : PortId} {k : Kind} (h : c.goodCell = some (x, k)) :
    ∃ act, ∀ s, exec c s = event (receive x k act) s := by
  cases c <;> cases h <;> exact ⟨_, fun _ => rfl⟩

theorem exec_badCell {bytes : List Byte} (x : PortId) (h : checkPasses bytes = false) (s : State) :
    exec (.badCell x bytes) s = event (receiveBad x) s := by
  change event (fun t => if checkPasses bytes then t else receiveBad x t) s = _
  simp [h]

theorem exec_unknownKind {kind : Byte} (x : PortId) (h : Kind.ofCode kind = none) (s : State) :
    exec (.unknownKind x kind) s = event (receiveUnknown x) s := by
  change event (fun t => if (Kind.ofCode kind).isSome then t else receiveUnknown x t) s = _
  simp [h]

/-- A cell that arrives is bad, of an undefined kind, or good (R3, R5). -/
theorem arrival_cases {c : Instr} {x : PortId} (h : c.arrival = some x) :
    (∃ bytes, c = .badCell x bytes ∧ checkPasses bytes = false) ∨
    (∃ kind, c = .unknownKind x kind ∧ Kind.ofCode kind = none) ∨ ∃ k, c.goodCell = some (x, k) := by
  by_cases hb : ∃ y bytes, c = .badCell y bytes
  · obtain ⟨y, bytes, rfl⟩ := hb
    simp only [Instr.arrival] at h
    split at h <;> simp_all
  by_cases hu : ∃ y kind, c = .unknownKind y kind
  · obtain ⟨y, kind, rfl⟩ := hu
    simp only [Instr.arrival] at h
    split at h <;> simp_all
  have hg : c.arrival = c.goodCell.map Prod.fst := by
    unfold Instr.arrival
    split
    · exact absurd ⟨_, _, rfl⟩ hb
    · exact absurd ⟨_, _, rfl⟩ hu
    · rfl
  obtain ⟨⟨y, k⟩, hk, rfl⟩ := Option.map_eq_some_iff.mp (hg.symm.trans h)
  exact .inr (.inr ⟨k, hk⟩)

/-- What every arriving cell does at a port that is not aligned, a good IDLE in TRAINING apart (R21, R26). -/
theorem exec_arrival {c : Instr} {x : PortId} (h : c.arrival = some x) :
    ∃ act, (∀ s, exec c s = event act s) ∧
      (∀ s, (s.port x).state = .down ∨ (s.port x).state = .failed → act s = s) ∧
      ∀ s, (s.port x).state = .training → c.goodCell ≠ some (x, .idle) →
        act s = (noteArrival x s).setPort x { s.port x with trainRun := 0 } := by
  rcases arrival_cases h with ⟨bytes, rfl, hb⟩ | ⟨kind, rfl, hk⟩ | ⟨k, hk⟩
  · refine ⟨receiveBad x, exec_badCell x hb, fun s => receiveBad_ignored, fun s hs _ => ?_⟩
    rw [receiveBad_training hs, trainCell_breaks]
  · refine ⟨receiveUnknown x, exec_unknownKind x hk, fun s => receiveUnknown_ignored, fun s hs _ => ?_⟩
    rw [receiveUnknown_training hs, trainCell_breaks]
  · obtain ⟨act, he⟩ := exec_goodCell hk
    refine ⟨receive x k act, he, fun s => receive_ignored k act, fun s hs hne => ?_⟩
    have hidle : (k == .idle) = false := beq_false_of_ne fun e => hne (e ▸ hk)
    rw [receive_training k act hs, hidle, trainCell_breaks]

/-- Settles O22: at each of the three sorts of arriving cell, by the port's state. -/
theorem cellsOutsideAlignment : Obligations.CellsOutsideAlignment := by
  intro c x s hs hc
  obtain ⟨act, he, hignored, htraining⟩ := exec_arrival hc
  refine ⟨fun h => ?_, fun h hne => ?_⟩
  · have ha := hignored s h
    rw [he, event_of_settled hs (ha.symm ▸ hs.2), ha]
  · have ha := htraining s h hne
    rw [he, event_of_settled hs (settled_of_own hs.2 (by simp [ha])), ha]

/-! Leaving a state -/

@[simp] theorem endWork_port (x y : PortId) (s : State) : (endWork x s).port y = s.port y := by
  cases x <;> cases y <;> rfl

@[simp] theorem endWork_own (x : PortId) (s : State) : (endWork x s).own = s.own := by cases x <;> rfl

@[simp] theorem State.setPort_setPort (s : State) (x : PortId) (v w : Port) :
    (s.setPort x v).setPort x w = s.setPort x w := by
  cases x <;> simp [State.setPort, State.setLp]

/-- The end of a port's work and a write to its record touch different things. -/
theorem endWork_setPort (x : PortId) (s : State) (v : Port) :
    endWork x (s.setPort x v) = (endWork x s).setPort x v := by cases x <;> rfl

theorem LogBlind.endWork (x : PortId) : LogBlind (endWork x) := by
  cases x with
  | d n =>
    exact LogBlind.setDLink (q := fun s => { s.dlink n with measure := Measure.fresh, enumWaiting := false })
      fun s t h => by
        have hd : t.dlink n = s.dlink n := congrArg (fun u => u.dlink n) (show t.sansLog = s.sansLog from h)
        rw [hd]
  | u =>
    refine ⟨fun s t h => ?_, fun _ => rfl, fun _ => rfl, fun s x k => ?_, fun _ _ => rfl, fun _ => rfl, fun _ => rfl⟩
    · exact congrArg (fun u => u.setLp { u.lp with echoes := [] }) h
    · cases x <;> rfl

/-- A port's record is replaced by one that keeps the counters and is read from record and time. -/
theorem LogBlind.updatePort {x : PortId} (q : Nat → Port → Port) (hc : ∀ a p, (q a p).counters = p.counters)
    (hq : ∀ a p, (q a p).sansLog = (q a p.sansLog).sansLog) : LogBlind fun s => s.setPort x (q s.now (s.port x)) :=
  LogBlind.setPort (fun s => hc s.now (s.port x)) fun s t h => by
    have hn : t.now = s.now := congrArg (fun u => u.now) (show t.sansLog = s.sansLog from h)
    rw [hq, port_sansLog_eq h, ← hq, hn]

/-- The port in FAILED, LINK_FAILED apart (R22, R25). -/
def failPort (x : PortId) (s : State) : State :=
  (endWork x s).setPort x { (s.port x).silenced with state := .failed }

theorem enterFailed_eq (x : PortId) (s : State) : enterFailed x s = raise .linkFailed (failPort x s) := by
  simp only [enterFailed, failPort, endWork_port]

theorem enterTraining_eq (x : PortId) (s : State) : enterTraining x s =
    (endWork x s).setPort x { s.port x with state := .training, trainRun := 0, windowFrom := s.now } := by
  simp only [enterTraining, endWork_port]

theorem failPort_logBlind (x : PortId) : LogBlind (failPort x) := by
  have h := (LogBlind.updatePort (x := x) (fun _ p => { p.silenced with state := .failed }) (fun _ _ => rfl)
    (fun _ _ => rfl)).comp (LogBlind.endWork x)
  simp only [endWork_port] at h
  exact h

theorem enterTraining_logBlind (x : PortId) : LogBlind (enterTraining x) := by
  have hnow : ∀ s, (Machine.endWork x s).now = s.now := fun s => by cases x <;> rfl
  have h := (LogBlind.updatePort (x := x) (fun a p => { p with state := .training, trainRun := 0, windowFrom := a })
    (fun _ _ => rfl) (fun _ _ => rfl)).comp (LogBlind.endWork x)
  simp only [endWork_port, hnow] at h
  exact (funext (enterTraining_eq x) : enterTraining x = _) ▸ h

/-! A failed attempt -/

/-- A port's attempts are counted (R22). -/
def countAttempt (x : PortId) (s : State) : State :=
  s.setPort x { s.port x with attempts := min 15 ((s.port x).attempts + 1) }

theorem countAttempt_logBlind (x : PortId) : LogBlind (countAttempt x) :=
  LogBlind.updatePort (fun _ p => { p with attempts := min 15 (p.attempts + 1) }) (fun _ _ => rfl) (fun _ _ => rfl)

theorem failAttempt_eq (x : PortId) (s : State) : failAttempt x s =
    if x ≠ .u ∧ 14 ≤ (s.port x).attempts then enterFailed x (bump x kAttemptFail (countAttempt x s))
    else enterTraining x (bump x kAttemptFail (countAttempt x s)) := by
  have h15 : 15 ≤ min 15 ((s.port x).attempts + 1) ↔ 14 ≤ (s.port x).attempts := by omega
  cases x <;> simp [failAttempt, countAttempt, h15]

theorem attemptFailed_eq (x : PortId) (s : State) : s.attemptFailed x =
    if x ≠ .u ∧ 14 ≤ (s.port x).attempts then failPort x (countAttempt x s)
    else enterTraining x (countAttempt x s) := by
  have h15 : 15 ≤ min 15 ((s.port x).attempts + 1) ↔ 14 ≤ (s.port x).attempts := by omega
  simp only [State.attemptFailed, failPort, enterTraining_eq, countAttempt, endWork_setPort, endWork_port, h15,
    State.port_setPort_self, State.setPort_setPort, Port.silenced, State.setPort_now]

/-- An attempt fails: counted in ATTEMPT_FAIL, with LINK_FAILED where it is a D port's fifteenth (R22). -/
theorem Recording.failAttempt {es : List Event} {cs : List (PortId × Fin 8)} {hs : List (Fin 3)} {s t : State}
    {x : PortId} (h : Recording es cs hs s t) (hx : (x, kAttemptFail) ∉ cs) :
    Recording (s.failEvents x ++ es) ((x, kAttemptFail) :: cs) hs (s.attemptFailed x) (failAttempt x t) := by
  have hcounted := (h.map (countAttempt_logBlind x)).bump hx
  have ha : (t.port x).attempts = (s.port x).attempts :=
    congrArg (fun p => p.attempts) (show (t.port x).sansLog = (s.port x).sansLog from port_sansLog_eq h.sansLog_eq x)
  rw [failAttempt_eq, attemptFailed_eq, ha, State.failEvents]
  split
  · rw [enterFailed_eq]
    exact (hcounted.map (failPort_logBlind x)).raise .linkFailed
  · exact hcounted.map (enterTraining_logBlind x)

/-! Bad cells -/

/-- Settles O24: BAD_CHECK and the run in each case, and a failed attempt beside them at the fourth outside UP. -/
theorem badCellsCount : Obligations.BadCellsCount := by
  intro x bytes s hs hbytes haligned hrun
  rw [exec_badCell x hbytes]
  have hset : ((noteArrival x s).setPort x { s.port x with badRun := (s.port x).badRun + 1 }).Settled :=
    settled_of_own hs.2 (by simp)
  have hbad := (Recording.start hset).bump (x := x) (k := kBadCheck) (by simp)
  have hact : receiveBad x s = badAligned x (noteArrival x s) := receiveBad_aligned haligned
  simp only [badAligned, noteArrival_port, noteArrival_isUp] at hact
  by_cases h3 : (s.port x).badRun < 3
  · rw [if_neg (by omega)] at hact
    simp only [h3, if_true]
    exact event_of_recording hs (hact ▸ hbad)
  · rw [if_pos (by omega), if_neg (by simp [hrun.resolve_left h3])] at hact
    simp only [h3, if_false]
    have hfail := hbad.failAttempt (x := x) (by simp [kAttemptFail, kBadCheck])
    refine event_of_recording hs (hact ▸ hfail.congr (fun e => ?_) (fun c => ?_))
    · simp [State.failEvents]
    · simp only [List.mem_cons, List.not_mem_nil, or_false]
      exact or_comm

/-! Good cells -/

theorem mem_allPorts (x : PortId) : x ∈ allPorts := by
  cases x with
  | d n => revert n; decide
  | u => decide

/-- In an aligned state of a hub whose ports follow their conditions IDLE is delivered and no conflict (Table 1-3). -/
theorem idle_delivered {x : PortId} {s : State} (hl : s.LinksFollow) (ha : s.aligned x = true) :
    s.delivers x .idle = true := by
  obtain ⟨-, -, hmeasuring, hwait⟩ := hl x (mem_allPorts x)
  rcases aligned_iff.mp ha with h | h | h
  · cases x with
    | d n => simp [State.delivers, h]
    | u => exact absurd rfl (hmeasuring h)
  · obtain ⟨rfl, hroot⟩ := hwait h
    simp [State.delivers, h, hroot]
  · cases x <;> simp [State.delivers, h]

theorem idle_no_conflict (x : PortId) (s : State) : s.conflicts x .idle = false := by
  cases x <;> simp [State.conflicts, Kind.direction]

/-- A good cell that is delivered has its effect on the hub that heard it. -/
theorem receive_delivered {x : PortId} {k : Kind} {s : State} (act : State → State) (ha : s.aligned x = true)
    (hc : s.conflicts x k = false) (hd : s.delivers x k = true) : receive x k act s = act (s.heard x) := by
  simp [receive_aligned k act ha, judgeCell, hc, hd, clearBadRun_noteArrival]

/-- A good cell that no block takes is discarded, and counted at the controller port (R7). -/
theorem receive_discarded {x : PortId} {k : Kind} {s : State} (act : State → State) (ha : s.aligned x = true)
    (hc : s.conflicts x k = false) (hd : s.delivers x k = false) :
    receive x k act s = if x = .u ∧ s.isRoot = true then bump x kUnknownKind (s.heard x) else s.heard x := by
  simp [receive_aligned k act ha, judgeCell, hc, hd, clearBadRun_noteArrival]

/-- A role conflict outside UP fails the port (R25). -/
theorem receive_conflict {x : PortId} {k : Kind} {s : State} (act : State → State) (ha : s.aligned x = true)
    (hc : s.conflicts x k = true) (hu : s.isUp x = false) :
    receive x k act s = raise .linkFailed (failPort x (raise .roleConflict (noteArrival x s))) := by
  simp [receive_aligned k act ha, judgeCell, hc, roleConflict, hu, enterFailed_eq]

/-- Settles O25: each sort of good cell by the branch of R6 and R7 it takes. -/
theorem goodCellsJudged : Obligations.GoodCellsJudged := by
  intro c x k kind s hs hl ha
  refine ⟨fun hc => ?_, fun hc hcon hdel => ?_, fun hk => ?_, fun hc hup hcon => ?_⟩
  · obtain rfl : c = .idle x := by cases c <;> cases hc; rfl
    have hact : receive x .idle (fun t => t) s = s.heard x :=
      receive_delivered _ ha (idle_no_conflict x s) (idle_delivered hl ha)
    exact (event_of_settled hs (hact.symm ▸ heard_settled hs.2)).trans (congrArg _ hact)
  · obtain ⟨act, he⟩ := exec_goodCell hc
    have hact := receive_discarded act ha hcon hdel
    have hidle : k ≠ .idle := by
      rintro rfl
      simp [idle_delivered hl ha] at hdel
    have hheard := Recording.start (heard_settled (x := x) hs.2)
    rw [he]
    refine event_of_recording hs (hact ▸ ?_)
    by_cases hroot : x = .u ∧ s.isRoot = true
    · rw [if_pos hroot, if_pos ⟨hroot.1, hroot.2, hidle⟩, hroot.1]
      exact (hroot.1 ▸ hheard).bump (by simp)
    · rw [if_neg hroot, if_neg fun h => hroot ⟨h.1, h.2.1⟩]
      exact hheard
  · rw [exec_unknownKind x hk]
    exact event_of_recording hs
      (receiveUnknown_aligned ha ▸ (Recording.start (heard_settled (x := x) hs.2)).bump (by simp))
  · obtain ⟨act, he⟩ := exec_goodCell hc
    have hfell := (((Recording.start (noteArrival_settled (x := x) hs.2)).raise .roleConflict).map
      (failPort_logBlind x)).raise .linkFailed
    rw [← receive_conflict act ha hcon hup, failPort, noteArrival_port] at hfell
    rw [he]
    exact event_of_recording hs (hfell.congr (by simp [or_comm]) fun _ => Iff.rfl)

end Sys2Proof.Machine
end

section
/-! SUPPORT. Where a management request goes from U (R9, R48, R51, R159), and the statement about it. -/

namespace Sys2Proof.Machine

open Sys2Proof

/-! The agent's queue -/

/-- Whether the agent's request queue takes one more (R159). -/
def State.agentRoom (s : State) : Bool := decide (s.ma.queue.length < 4)

/-- The state once the agent's queue has taken `r`, where it has room. -/
def State.givenAgent (s : State) (r : Request) : State :=
  if s.agentRoom then s.setMa { s.ma with queue := s.ma.queue ++ [r] } else s

/-- AGENT_DROP, where the agent's queue is full. -/
def State.agentLoss (s : State) : List (PortId × Fin 8) := if s.agentRoom then [] else [(.u, kAgentDrop)]

@[simp] theorem givenAgent_cf (s : State) (r : Request) : (s.givenAgent r).cf = s.cf := by
  unfold State.givenAgent; split <;> rfl

@[simp] theorem givenAgent_isUp (s : State) (r : Request) (x : PortId) : (s.givenAgent r).isUp x = s.isUp x := by
  unfold State.givenAgent; split <;> simp [State.isUp]

/-- A request that reaches the agent joins its queue or is counted in AGENT_DROP (R159). -/
theorem joinAgent_recording {s : State} (r : Request) (h : s.Settled) :
    Recording [] s.agentLoss [] (s.givenAgent r) (joinAgent r s) := by
  unfold State.agentLoss State.givenAgent State.agentRoom joinAgent
  by_cases hr : s.ma.queue.length < 4
  · simpa [hr] using Recording.start (settled_of_own (t := s.setMa { s.ma with queue := s.ma.queue ++ [r] }) h rfl)
  · simpa [hr] using (Recording.start h).bump (x := .u) (k := kAgentDrop) (by simp)

/-! The links' management queues -/

theorem mem_allLinks (n : Dn) : n ∈ allLinks := by revert n; decide

/-- Whether the management queue of link `n` takes one more (R51). -/
def State.mgmtRoom (s : State) (n : Dn) : Bool := decide ((s.egress n).mgmt.length < 16)

/-- The queues of link `n` with `r` at the tail of the management queue. -/
def State.withMgmt (s : State) (r : Request) (n : Dn) : Egress :=
  { s.egress n with mgmt := (s.egress n).mgmt ++ [r] }

theorem placeMgmt_eq (n : Dn) (r : Request) (s : State) : placeMgmt n r s =
    if s.mgmtRoom n then s.setEgress n (s.withMgmt r n) else bump (.d n) kMgmtDrop s := by
  simp [placeMgmt, State.mgmtRoom, State.withMgmt]

/-- The state once each link of `l` that is UP and has room has taken `r`. -/
def State.sentTo (s : State) (r : Request) (l : List Dn) : State :=
  s.setCf
    { s.cf with
      egress := tab fun n => if n ∈ l ∧ (s.isUp (.d n) && s.mgmtRoom n) = true then s.withMgmt r n else s.egress n }

/-- MGMT_DROP of each link of `l` that is UP and has no room. -/
def State.mgmtLoss (s : State) (l : List Dn) : List (PortId × Fin 8) :=
  (l.filter fun n => s.isUp (.d n) && !s.mgmtRoom n).map fun n => (PortId.d n, kMgmtDrop)

theorem sentTo_nil (s : State) (r : Request) : s.sentTo r [] = s := by
  simp only [State.sentTo, List.not_mem_nil, false_and, if_false, State.egress, tab_look]
  rfl

@[simp] theorem sentTo_isUp (s : State) (r : Request) (l : List Dn) (x : PortId) :
    (s.sentTo r l).isUp x = s.isUp x := by simp [State.sentTo, State.isUp]

theorem sentTo_egress_of_not_mem {s : State} (r : Request) {l : List Dn} {n : Dn} (h : n ∉ l) :
    (s.sentTo r l).egress n = s.egress n := by simp [State.sentTo, State.egress, h]

theorem mgmtRoom_congr {s t : State} (h : t.cf = s.cf) (n : Dn) : t.mgmtRoom n = s.mgmtRoom n := by
  rw [State.mgmtRoom, State.egress, h, State.mgmtRoom, State.egress]

theorem withMgmt_congr {s t : State} (h : t.cf = s.cf) (r : Request) (n : Dn) : t.withMgmt r n = s.withMgmt r n := by
  rw [State.withMgmt, State.egress, h, State.withMgmt, State.egress]

/-- What a broadcast loses is read from the ports and the queues alone. -/
theorem mgmtLoss_congr {s t : State} (h : t.cf = s.cf) (hu : ∀ x, t.isUp x = s.isUp x) (l : List Dn) :
    t.mgmtLoss l = s.mgmtLoss l := by simp only [State.mgmtLoss, hu, mgmtRoom_congr h]

theorem sentTo_snoc {s : State} (r : Request) {l : List Dn} {n : Dn} (h : n ∉ l) : s.sentTo r (l ++ [n]) =
    if s.isUp (.d n) && s.mgmtRoom n then (s.sentTo r l).setEgress n (s.withMgmt r n) else s.sentTo r l := by
  have hbank : (tab fun m =>
        if m ∈ l ++ [n] ∧ (s.isUp (.d m) && s.mgmtRoom m) = true then s.withMgmt r m else s.egress m) =
      if s.isUp (.d n) && s.mgmtRoom n then upd (s.sentTo r l).cf.egress n (s.withMgmt r n)
      else (s.sentTo r l).cf.egress := by
    refine bank_ext fun m => ?_
    by_cases hm : n = m
    · subst hm
      split <;> simp_all [State.sentTo, -Bool.and_eq_true]
    · split <;> simp [State.sentTo, hm, Ne.symm hm]
  rw [State.sentTo, hbank]
  split <;> rfl

section
variable {es : List Event} {cs : List (PortId × Fin 8)} {hs : List (Fin 3)} {s t : State}

theorem Recording.isUp_eq (h : Recording es cs hs s t) (x : PortId) : t.isUp x = s.isUp x :=
  congrArg (fun p => p.state == .up) (show (t.port x).sansLog = (s.port x).sansLog from port_sansLog_eq h.sansLog_eq x)

theorem Recording.egress_eq (h : Recording es cs hs s t) (n : Dn) : t.egress n = s.egress n :=
  congrArg (fun u => u.egress n) (show t.sansLog = s.sansLog from h.sansLog_eq)

/-- A request on its way down link `n`: it joins the queue or is counted in MGMT_DROP (R51). -/
theorem Recording.placeMgmt (h : Recording es cs hs s t) (r : Request) (n : Dn) (hn : (.d n, kMgmtDrop) ∉ cs) :
    Recording es (if s.mgmtRoom n then cs else (.d n, kMgmtDrop) :: cs) hs
      (if s.mgmtRoom n then s.setEgress n (s.withMgmt r n) else s) (placeMgmt n r t) := by
  have hroom : t.mgmtRoom n = s.mgmtRoom n := by rw [State.mgmtRoom, h.egress_eq, State.mgmtRoom]
  rw [placeMgmt_eq, hroom]
  split
  · exact h.map (LogBlind.setEgress (q := fun u => u.withMgmt r n) fun s t hst => by
      have he : t.egress n = s.egress n := congrArg (fun u => u.egress n) (show t.sansLog = s.sansLog from hst)
      rw [State.withMgmt, he, State.withMgmt])
  · exact h.bump hn

/-- A broadcast goes down each link of `l` that is UP (R48, R51). -/
theorem Recording.sendAll (h : Recording es cs hs s t) (r : Request) (l : List Dn) (hl : l.Nodup)
    (hcs : ∀ n, (.d n, kMgmtDrop) ∉ cs) :
    Recording es (cs ++ s.mgmtLoss l) hs (s.sentTo r l)
      (l.foldl (fun u n => if u.isUp (.d n) then Machine.placeMgmt n r u else u) t) := by
  induction l using List.reverseRecOn with
  | nil => simpa [State.mgmtLoss, sentTo_nil] using h
  | append_singleton l n ih =>
    obtain ⟨hnodup, -, hdisj⟩ := List.nodup_append.mp hl
    have hn : n ∉ l := fun hm => hdisj n hm n (List.mem_singleton.mpr rfl) rfl
    have ih := ih hnodup
    have hroom : (s.sentTo r l).mgmtRoom n = s.mgmtRoom n := by
      rw [State.mgmtRoom, sentTo_egress_of_not_mem r hn, State.mgmtRoom]
    have hgiven : (s.sentTo r l).withMgmt r n = s.withMgmt r n := by
      rw [State.withMgmt, sentTo_egress_of_not_mem r hn, State.withMgmt]
    have hfree : (.d n, kMgmtDrop) ∉ cs ++ s.mgmtLoss l := by simp [hcs, State.mgmtLoss, hn]
    have hsent := ih.placeMgmt r n hfree
    rw [hroom, hgiven] at hsent
    rw [List.foldl_append, List.foldl_cons, List.foldl_nil, ih.isUp_eq, sentTo_isUp, sentTo_snoc r hn]
    cases hu : s.isUp (.d n)
    · simpa [State.mgmtLoss, hu] using ih
    · cases hr : s.mgmtRoom n
      · simp only [hr, Bool.false_eq_true, if_false] at hsent
        simpa [hr] using hsent.congr (fun _ => Iff.rfl)
          (by simp [State.mgmtLoss, List.filter_append, hu, hr, or_comm, or_left_comm])
      · simpa [State.mgmtLoss, hu, hr] using hsent

end

/-! Routing -/

@[simp] theorem heard_isUp (s : State) (x : PortId) : (s.heard .u).isUp x = s.isUp x := by cases x <;> rfl

@[simp] theorem heard_cf (x : PortId) (s : State) : (s.heard x).cf = s.cf := by simp [State.heard, clearBadRun]

@[simp] theorem heard_ma (x : PortId) (s : State) : (s.heard x).ma = s.ma := by simp [State.heard, clearBadRun]

@[simp] theorem heard_routeOf (s : State) (a : Addr) : (s.heard .u).routeOf a = s.routeOf a := rfl

/-- A request at a U that is UP is routed by the hub that heard it. -/
theorem exec_mreq {r : Request} {s : State} (hs : s.Ready) (hu : (s.port .u).state = .up) :
    exec (.mreq .u r) s = .next (settle (routeRequest r (s.heard .u))) := by
  have hact : receive .u .mreq (routeRequest r) s = routeRequest r (s.heard .u) :=
    receive_delivered _ (aligned_iff.mpr (.inr (.inr hu))) (by simp [State.conflicts, Kind.direction])
      (by simp [State.delivers, hu])
  rw [← hact]
  exact event_of_ready _ hs

/-- Settles O37: the branches of R48, each by what the queue it names does. -/
theorem requestsAreRouted : Obligations.RequestsAreRouted := by
  intro r s hs hu
  refine ⟨_, exec_mreq hs hu, ?_⟩
  have hset : (s.heard .u).Settled := heard_settled hs.2
  have hstart := Recording.start hset
  have hagent := joinAgent_recording r hset
  intro h joins room here lost given
  refine ⟨fun hhere => ?_, fun n hbelow => ⟨fun hdown => ?_, fun hup hroom => ?_, fun hup hroom => ?_⟩,
    fun helse => ?_, fun hall => ?_⟩
  · simp only [routeRequest, heard_routeOf, hhere]
    exact hagent.settle
  · simp only [routeRequest, heard_routeOf, hbelow, heard_isUp, hdown]
    exact (hstart.bump (by simp)).settle
  · have hr : (s.heard .u).mgmtRoom n = true := hroom
    simp only [routeRequest, heard_routeOf, hbelow, heard_isUp, hup, if_true, placeMgmt_eq, hr]
    exact settle_of_settled (settled_of_own hset rfl)
  · have hr : (s.heard .u).mgmtRoom n = false := hroom
    have hfull := hstart.placeMgmt r n (by simp)
    simp only [hr, Bool.false_eq_true, if_false] at hfull
    simp only [routeRequest, heard_routeOf, hbelow, heard_isUp, hup, if_true]
    exact hfull.settle
  · simp only [routeRequest, heard_routeOf, helse]
    exact (hstart.bump (by simp)).settle
  · have hloss : ∀ n, (PortId.d n, kMgmtDrop) ∉ (s.heard .u).agentLoss := by
      intro n
      unfold State.agentLoss
      split <;> simp
    have hsent := (hagent.sendAll r allLinks (by decide) hloss).settle
    have hcf := givenAgent_cf (s.heard .u) r
    have hup := givenAgent_isUp (s.heard .u) r
    rw [mgmtLoss_congr hcf hup] at hsent
    simp only [State.sentTo, mem_allLinks, true_and, hcf, hup, heard_isUp, mgmtRoom_congr hcf, withMgmt_congr hcf,
      State.egress] at hsent
    simp only [routeRequest, heard_routeOf, hall]
    exact hsent

end Sys2Proof.Machine
end

section
/-! SUPPORT. Tree addresses by their fields (Table 1-4), and the statement about the address a hub gives its child (R8, R9,
R32). -/

namespace Sys2Proof

/-! The fields of an address -/

theorem Addr.pack_depth {d h1 h2 h3 : Nat} (hd : d < 8) (h1' : h1 < 8) (h2' : h2 < 8) (h3' : h3 < 8) :
    (Addr.pack d h1 h2 h3).depth = d := by
  simp only [Addr.depth, Addr.pack, BitVec.extractLsb'_toNat, BitVec.toNat_ofNat, Nat.shiftRight_eq_div_pow]
  omega

theorem Addr.pack_hops {d h1 h2 h3 : Nat} (h1' : h1 < 8) (h2' : h2 < 8) (h3' : h3 < 8) :
    (Addr.pack d h1 h2 h3).hops = [h1, h2, h3] := by
  simp only [Addr.hops, Addr.pack, BitVec.extractLsb'_toNat, BitVec.toNat_ofNat, Nat.shiftRight_eq_div_pow,
    List.cons.injEq, and_true]
  omega

theorem Addr.pack_gap {d h1 h2 h3 : Nat} (h1' : h1 < 8) (h2' : h2 < 8) (h3' : h3 < 8) :
    (Addr.pack d h1 h2 h3).extractLsb' 9 4 = 0#4 := by
  apply BitVec.eq_of_toNat_eq
  simp only [Addr.pack, BitVec.extractLsb'_toNat, BitVec.toNat_ofNat, Nat.shiftRight_eq_div_pow]
  omega

/-- What it is to name a hub (R8). -/
theorem Addr.namesHub_iff (a : Addr) : a.namesHub = true ↔
    a.depth ≤ 3 ∧ a.extractLsb' 9 4 = 0#4 ∧ (∀ h ∈ a.hops.take a.depth, h ≤ 5) ∧ ∀ h ∈ a.hops.drop a.depth, h = 0 := by
  simp [Addr.namesHub, and_assoc]

/-- The address with a depth and hops that fit it names a hub of that depth and those hops (R8). -/
theorem Addr.pack_fields {d h1 h2 h3 : Nat} (hd : d ≤ 3) (h1' : h1 ≤ 5) (h2' : h2 ≤ 5) (h3' : h3 ≤ 5)
    (hfree : ∀ h ∈ [h1, h2, h3].drop d, h = 0) :
    (Addr.pack d h1 h2 h3).namesHub = true ∧ (Addr.pack d h1 h2 h3).depth = d ∧
      (Addr.pack d h1 h2 h3).hops = [h1, h2, h3] := by
  have hdepth : (Addr.pack d h1 h2 h3).depth = d := pack_depth (by omega) (by omega) (by omega) (by omega)
  have hhops : (Addr.pack d h1 h2 h3).hops = [h1, h2, h3] := pack_hops (by omega) (by omega) (by omega)
  have hused : ∀ h ∈ [h1, h2, h3].take d, h ≤ 5 := fun h hm => by
    have := List.mem_of_mem_take hm
    simp only [List.mem_cons, List.not_mem_nil, or_false] at this
    omega
  refine ⟨?_, hdepth, hhops⟩
  rw [namesHub_iff, hdepth, hhops, pack_gap (by omega) (by omega) (by omega)]
  exact ⟨hd, rfl, hused, hfree⟩

theorem Addr.hops_length (a : Addr) : a.hops.length = 3 := rfl

/-- A field of an address is its depth, the four bits beside it and its hops. -/
theorem Addr.eq_of_fields {a b : Addr} (hd : a.depth = b.depth) (hg : a.extractLsb' 9 4 = b.extractLsb' 9 4)
    (hh : a.hops = b.hops) : a = b := by
  have hg := congrArg BitVec.toNat hg
  simp only [Addr.depth, Addr.hops, BitVec.extractLsb'_toNat, Nat.shiftRight_eq_div_pow, List.cons.injEq, and_true] at *
  apply BitVec.eq_of_toNat_eq
  omega

/-- Two addresses of one depth that name hubs and agree in the hops down to it are one (R8). -/
theorem Addr.eq_of_namesHub {a b : Addr} (ha : a.namesHub = true) (hb : b.namesHub = true) (hd : a.depth = b.depth)
    (ht : a.hops.take a.depth = b.hops.take a.depth) : a = b := by
  obtain ⟨-, hga, -, hfa⟩ := a.namesHub_iff.mp ha
  obtain ⟨-, hgb, -, hfb⟩ := b.namesHub_iff.mp hb
  have hzero : a.hops.drop a.depth = b.hops.drop a.depth := by
    have hfb' : ∀ h ∈ b.hops.drop a.depth, h = 0 := hd ▸ hfb
    rw [List.eq_replicate_of_mem hfa, List.eq_replicate_of_mem hfb', List.length_drop, List.length_drop,
      hops_length, hops_length]
  refine eq_of_fields hd (hga.trans hgb.symm) ?_
  rw [← List.take_append_drop a.depth a.hops, ht, hzero, List.take_append_drop]

theorem Addr.not_broadcast_of_namesHub {a : Addr} (h : a.namesHub = true) : a.isBroadcast = false := by
  obtain ⟨hd, -⟩ := a.namesHub_iff.mp h
  exact beq_false_of_ne (by omega)

/-! Routing (R9) -/

/-- The route of an address that names a hub. -/
theorem Addr.route_of_namesHub {x : Addr} (own : Addr) (d : Nat) (h : x.namesHub = true) : x.route own d =
    if x.hops.take d ≠ own.hops.take d then .elsewhere
    else if x.depth = d then .here
    else if d < x.depth then
      if h : x.hops.getD d 6 < 6 then .below ⟨x.hops.getD d 6, h⟩ else .elsewhere
    else .elsewhere := by
  simp [Addr.route, not_broadcast_of_namesHub h, h]

/-- What is at home at a hub is its own address and no other (R9). -/
theorem Addr.route_here_iff {x own : Addr} {d : Nat} (ho : own.namesHub = true) (hd : own.depth = d) :
    x.route own d = .here ↔ x = own := by
  constructor
  · intro h
    cases hx : x.namesHub
    · unfold Addr.route at h
      simp [hx] at h
      split at h <;> cases h
    · rw [route_of_namesHub own d hx] at h
      split at h
      · cases h
      · next ht =>
        split at h
        · next hdepth => exact eq_of_namesHub hx ho (hdepth.trans hd.symm) (by simpa [hdepth] using ht)
        · split at h
          · split at h <;> cases h
          · cases h
  · rintro rfl
    simp [route_of_namesHub x d ho, hd]

/-- What names a hub above a depth is elsewhere from that depth (R9). -/
theorem Addr.route_above {x : Addr} (own : Addr) {d : Nat} (h : x.namesHub = true) (hd : x.depth < d) :
    x.route own d = .elsewhere := by
  have hne : x.depth ≠ d := by omega
  have hlt : ¬ d < x.depth := by omega
  simp only [route_of_namesHub own d h, hne, hlt, if_false, ite_self]

/-- What names a hub one deeper, by the same hops and link `n`, is below on `n` (R9). -/
theorem Addr.route_below {x own : Addr} {d : Nat} {n : Dn} (h : x.namesHub = true) (hd : x.depth = d + 1)
    (ht : x.hops.take (d + 1) = own.hops.take d ++ [n.val]) (hl : d ≤ own.hops.length) : x.route own d = .below n := by
  have hlen : (own.hops.take d).length = d := by rw [List.length_take, min_eq_left hl]
  have htake : x.hops.take d = own.hops.take d := by
    have := congrArg (List.take d) ht
    rwa [List.take_take, min_eq_left (by omega), List.take_left' hlen] at this
  have hget : x.hops[d]? = some n.val := by
    rw [← List.getElem?_take_of_lt (show d < d + 1 by omega), ht, List.getElem?_append_right (by omega), hlen]
    simp
  simp [route_of_namesHub own d h, htake, hd, List.getD_eq_getElem?_getD, hget]

/-! The address of a child (R32) -/

/-- The child's address names a hub one deeper, with the same hops and the link's number added. -/
theorem Addr.child_fields {own : Addr} {d : Nat} (n : Dn) (ho : own.namesHub = true) (hd : own.depth = d) (h2 : d ≤ 2) :
    (own.child d n).namesHub = true ∧ (own.child d n).depth = d + 1 ∧
      (own.child d n).hops.take (d + 1) = own.hops.take d ++ [n.val] := by
  obtain ⟨-, -, hused, -⟩ := own.namesHub_iff.mp ho
  obtain ⟨a, b, c, hops⟩ : ∃ a b c, own.hops = [a, b, c] := ⟨_, _, _, rfl⟩
  have hn : n.val ≤ 5 := by omega
  rw [hd, hops] at hused
  match d, h2 with
  | 0, _ =>
    have hpack : own.child 0 n = pack 1 n 0 0 := rfl
    obtain ⟨hnames, hdepth, hhops⟩ := pack_fields (d := 1) (by omega) hn (Nat.zero_le 5) (Nat.zero_le 5) (by simp)
    rw [hpack, hhops]
    exact ⟨hnames, hdepth, rfl⟩
  | 1, _ =>
    have hpack : own.child 1 n = pack 2 a n 0 := by simp only [child, hops]; rfl
    obtain ⟨hnames, hdepth, hhops⟩ := pack_fields (d := 2) (by omega) (hused a (by simp)) hn (Nat.zero_le 5) (by simp)
    rw [hpack, hhops, hops]
    exact ⟨hnames, hdepth, rfl⟩
  | 2, _ =>
    have hpack : own.child 2 n = pack 3 a b n := by simp only [child, hops]; rfl
    obtain ⟨hnames, hdepth, hhops⟩ :=
      pack_fields (d := 3) (by omega) (hused a (by simp)) (hused b (by simp)) hn (by simp)
    rw [hpack, hhops, hops]
    exact ⟨hnames, hdepth, rfl⟩

/-- Settles O13: the child's fields, and R9's comparison read from them at both hubs. -/
theorem childAddressesRoute : Obligations.ChildAddressesRoute := by
  intro own x d n ho hd h2
  obtain ⟨hc, hdepth, hhops⟩ := Addr.child_fields n ho hd h2
  have hbelow : (own.child d n).route own d = .below n :=
    Addr.route_below hc hdepth hhops (by rw [Addr.hops_length]; omega)
  refine ⟨hc, hdepth, hhops, hbelow, (Addr.route_here_iff hc hdepth).mpr rfl,
    Addr.route_above _ ho (by omega), Addr.route_here_iff ho hd, fun hhere => ?_⟩
  rw [(Addr.route_here_iff hc hdepth).mp hhere, hbelow]

end Sys2Proof
end

section
/-! SUPPORT. The CHECK byte finds every change of one byte: the remainder is linear, and a byte's share of it is lost by no
later byte (R2, R3). -/

namespace Sys2Proof

/-! Linearity -/

/-- What R2 adds to the shifted remainder: its polynomial, where bit 7 and the message bit differ. -/
def crcFeedback (a : Bool) : Byte := if a then 0x07#8 else 0x00#8

theorem crcBit_eq (r : Byte) (b : Bool) : crcBit r b = r <<< 1 ^^^ crcFeedback (r.getLsbD 7 ^^ b) := by
  unfold crcBit crcFeedback
  cases r.getLsbD 7 <;> cases b <;> simp

theorem crcFeedback_xor : ∀ a b : Bool, crcFeedback (a ^^ b) = crcFeedback a ^^^ crcFeedback b := by decide

theorem crcBit_xor (r q : Byte) (a b : Bool) : crcBit (r ^^^ q) (a ^^ b) = crcBit r a ^^^ crcBit q b := by
  simp only [crcBit_eq, BitVec.getLsbD_xor, BitVec.shiftLeft_xor_distrib, crcFeedback_xor]
  ac_rfl

theorem crcByte_xor (r q x y : Byte) : crcByte (r ^^^ q) (x ^^^ y) = crcByte r x ^^^ crcByte q y := by
  simp only [crcByte, List.foldl_cons, List.foldl_nil, BitVec.getLsbD_xor, crcBit_xor]

/-! What a byte leaves in the remainder -/

theorem crcByte_left_eq_zero : ∀ r : Byte, crcByte r 0#8 = 0#8 → r = 0#8 := by decide +kernel

theorem crcByte_right_eq_zero : ∀ x : Byte, crcByte 0#8 x = 0#8 → x = 0#8 := by decide +kernel

/-- A byte does not hide a difference in the remainder before it. -/
theorem crcByte_left_injective {r q x : Byte} (h : crcByte r x = crcByte q x) : r = q := by
  have hz : crcByte (r ^^^ q) (x ^^^ x) = 0#8 := by rw [crcByte_xor, h, BitVec.xor_self]
  exact BitVec.xor_eq_zero_iff.mp (crcByte_left_eq_zero _ (BitVec.xor_self (x := x) ▸ hz))

/-- Two bytes leave two remainders. -/
theorem crcByte_right_injective {r x y : Byte} (h : crcByte r x = crcByte r y) : x = y := by
  have hz : crcByte (r ^^^ r) (x ^^^ y) = 0#8 := by rw [crcByte_xor, h, BitVec.xor_self]
  exact BitVec.xor_eq_zero_iff.mp (crcByte_right_eq_zero _ (BitVec.xor_self (x := r) ▸ hz))

theorem crcFold_injective : ∀ (l : List Byte) {r q : Byte}, l.foldl crcByte r = l.foldl crcByte q → r = q
  | [], _, _, h => h
  | _ :: l, _, _, h => crcByte_left_injective (crcFold_injective l h)

/-- With one byte changed the remainder is another. -/
theorem crcFold_set_ne (v : Byte) : ∀ (l : List Byte) (i : Nat) (r : Byte), i < l.length → l.getD i 0#8 ≠ v →
    (l.set i v).foldl crcByte r ≠ l.foldl crcByte r
  | [], _, _, hi, _ => absurd hi (Nat.not_lt_zero _)
  | _ :: l, 0, r, _, hv => fun h => hv (crcByte_right_injective (r := r) (crcFold_injective l h)).symm
  | x :: l, i + 1, r, hi, hv => crcFold_set_ne v l i (crcByte r x) (Nat.lt_of_succ_lt_succ hi) hv

/-! Sixteen bytes -/

/-- Fifteen bytes and a sixteenth pass CHECK just where it is their remainder (R3). -/
theorem checkPasses_append {h : List Byte} (hl : h.length = 15) (b : Byte) :
    checkPasses (h ++ [b]) = (crc h == b) := by
  simp [checkPasses, hl]

/-- Bytes that pass CHECK are fifteen bytes and their remainder. -/
theorem eq_of_checkPasses {bytes : List Byte} (h : checkPasses bytes = true) :
    bytes.length = 16 ∧ bytes = bytes.take 15 ++ [crc (bytes.take 15)] := by
  simp only [checkPasses, Bool.and_eq_true, beq_iff_eq] at h
  obtain ⟨hl, hc⟩ := h
  have hlast : bytes.drop 15 = [bytes.getD 15 0#8] := by
    rw [List.drop_eq_getElem_cons (by omega), List.drop_eq_nil_of_le (by omega), List.getD_eq_getElem _ _ (by omega)]
  exact ⟨hl, by rw [hc, ← hlast, List.take_append_drop]⟩

/-- A cell damaged in one byte fails CHECK (R3). -/
theorem checkPasses_set {h : List Byte} (hl : h.length = 15) {i : Nat} {v : Byte} (hi : i < 16)
    (hv : (h ++ [crc h]).getD i 0#8 ≠ v) : checkPasses ((h ++ [crc h]).set i v) = false := by
  by_cases hlt : i < 15
  · rw [List.set_append_left _ _ (by omega), checkPasses_append (by simpa using hl)]
    rw [List.getD_append _ _ _ _ (by omega)] at hv
    exact beq_false_of_ne (crcFold_set_ne v h i _ (by omega) hv)
  · obtain rfl : i = 15 := by omega
    rw [List.set_append_right _ _ (by omega), hl]
    rw [List.getD_append_right _ _ _ _ (by omega), hl] at hv
    exact (checkPasses_append hl v).trans (beq_false_of_ne hv)

end Sys2Proof
end

section
/-! SUPPORT. The bytes of a cell and what is read from them (R1 to R3, Tables 1-1, 1-5 to 1-9), and the statement about
them. -/

namespace Sys2Proof

/-! Numbers in bytes, most significant first (R1) -/

theorem beNat_cons (b : Byte) (l : List Byte) : beNat (b :: l) = b.toNat * 256 ^ l.length + beNat l := by
  have hfold : ∀ (l : List Byte) (a : Nat),
      l.foldl (fun n b => n * 256 + b.toNat) a = a * 256 ^ l.length + beNat l := by
    intro l
    induction l with
    | nil => simp [beNat]
    | cons b l ih =>
      intro a
      have hb : beNat (b :: l) = l.foldl (fun n b => n * 256 + b.toNat) (0 * 256 + b.toNat) := rfl
      rw [List.foldl_cons, ih, hb, ih, List.length_cons, Nat.pow_succ]
      ring
  simpa [beNat] using hfold l b.toNat

theorem beNat_lt (l : List Byte) : beNat l < 256 ^ l.length := by
  induction l with
  | nil => simp [beNat]
  | cons b l ih =>
    have hb : b.toNat + 1 ≤ 256 := b.isLt
    rw [beNat_cons, List.length_cons, Nat.pow_succ]
    nlinarith [Nat.mul_le_mul_right (256 ^ l.length) hb]

/-- A number is read back modulo its bytes. -/
theorem beNat_beBytes (n v : Nat) : beNat (beBytes n v) = v % 256 ^ n := by
  induction n with
  | zero => simp [beBytes, beNat, Nat.mod_one]
  | succ n ih =>
    rw [beBytes, beNat_cons, ih, beBytes_length, BitVec.toNat_ofNat, Nat.pow_succ 256 n, Nat.mod_mul, Nat.mul_comm,
      Nat.add_comm]

/-- Bytes are the bytes of the number they give, whatever stands above it. -/
theorem beBytes_beNat_add : ∀ (l : List Byte) (a : Nat), beBytes l.length (a * 256 ^ l.length + beNat l) = l
  | [], _ => rfl
  | b :: l, a => by
    have hv : a * 256 ^ (l.length + 1) + beNat (b :: l) = (a * 256 + b.toNat) * 256 ^ l.length + beNat l := by
      rw [beNat_cons, Nat.pow_succ]; ring
    have hdiv : ((a * 256 + b.toNat) * 256 ^ l.length + beNat l) / 256 ^ l.length = a * 256 + b.toNat := by
      rw [Nat.add_comm, Nat.add_mul_div_right _ _ (by positivity), Nat.div_eq_of_lt (beNat_lt l), Nat.zero_add]
    have hbyte : BitVec.ofNat 8 (a * 256 + b.toNat) = b := by
      apply BitVec.eq_of_toNat_eq
      have := b.isLt
      rw [BitVec.toNat_ofNat]
      omega
    rw [List.length_cons, hv, beBytes, hdiv, hbyte, beBytes_beNat_add l]

theorem beBytes_beNat (l : List Byte) : beBytes l.length (beNat l) = l := by
  simpa using beBytes_beNat_add l 0

/-! Fields of received bytes -/

/-- A field whose bytes are those of a number. -/
theorem fieldOf_eq {bytes : List Byte} {i n v : Nat} (h : (bytes.drop i).take n = beBytes n v) :
    fieldOf bytes i n = v % 256 ^ n := by rw [fieldOf, h, beNat_beBytes]

theorem fieldOf_lt (bytes : List Byte) (i n : Nat) : fieldOf bytes i n < 256 ^ n :=
  (beNat_lt _).trans_le (Nat.pow_le_pow_right (by omega) (List.length_take_le _ _))

/-- A field's bytes are those of its number. -/
theorem beBytes_fieldOf {bytes : List Byte} {i n : Nat} (h : i + n ≤ bytes.length) :
    beBytes n (fieldOf bytes i n) = (bytes.drop i).take n := by
  have hl : ((bytes.drop i).take n).length = n := by rw [List.length_take, List.length_drop]; omega
  have hb := beBytes_beNat ((bytes.drop i).take n)
  rwa [hl] at hb

/-- A field is not seen to change by bytes after it. -/
theorem fieldOf_append {l : List Byte} (m : List Byte) {i n : Nat} (h : i + n ≤ l.length) :
    fieldOf (l ++ m) i n = fieldOf l i n := by
  rw [fieldOf, List.drop_append_of_le_length (by omega), List.take_append_of_le_length (by rw [List.length_drop]; omega),
    fieldOf]

theorem bodyOf_toList {bytes : List Byte} (h : 15 ≤ bytes.length) : (bodyOf bytes).toList = (bytes.drop 1).take 14 := by
  refine List.ext_getElem (by simp; omega) fun i hi _ => ?_
  have h14 : i < 14 := by simpa using hi
  have hb : (bodyOf bytes)[i] = bytes.getD (i + 1) 0#8 := look_tab _ (⟨i, h14⟩ : Fin 14)
  rw [List.getElem_take, List.getElem_drop, Vector.getElem_toList, hb, List.getD_eq_getElem _ _ (by omega)]
  simp only [Nat.add_comm 1 i]

/-- A field that holds a word. -/
theorem word_fieldOf {bytes : List Byte} {i n w : Nat} {x : BitVec w} (h : (bytes.drop i).take n = beBytes n x.toNat)
    (hw : 2 ^ w ≤ 256 ^ n) : BitVec.ofNat w (fieldOf bytes i n) = x := by
  rw [fieldOf_eq h, Nat.mod_eq_of_lt (x.isLt.trans_le hw), BitVec.ofNat_toNat, BitVec.setWidth_eq]

/-- A field of one byte. -/
theorem byte_fieldOf {bytes : List Byte} {i : Nat} (h : i < bytes.length) :
    BitVec.ofNat 8 (fieldOf bytes i 1) = bytes.getD i 0#8 := by
  rw [fieldOf, List.drop_eq_getElem_cons h, List.getD_eq_getElem _ _ h, List.take_succ_cons, List.take_zero, beNat_cons]
  simp [beNat]

/-- The number of a word read from a field that it holds. -/
theorem toNat_fieldOf (bytes : List Byte) {i n w : Nat} (hw : 256 ^ n ≤ 2 ^ w) :
    (BitVec.ofNat w (fieldOf bytes i n)).toNat = fieldOf bytes i n := by
  rw [BitVec.toNat_ofNat, Nat.mod_eq_of_lt ((fieldOf_lt bytes i n).trans_le hw)]

/-! Codes -/

theorem Kind.ofCode_code (k : Kind) : Kind.ofCode k.code = some k := by cases k <;> rfl

theorem Kind.code_of_ofCode {b : Byte} {k : Kind} (h : Kind.ofCode b = some k) : k.code = b := by
  simpa using List.find?_some h

theorem Op.ofCode_code (o : Op) : Op.ofCode (o.code % 4) = o := by cases o <;> rfl

theorem Op.code_lt (o : Op) : o.code < 4 := by cases o <;> decide

theorem Op.code_ofCode : ∀ n < 4, (Op.ofCode n).code = n := by decide

theorem RootState.ofCode_code (st : RootState) : RootState.ofCode st.code = some st := by cases st <;> rfl

theorem RootState.code_lt (st : RootState) : st.code < 8 := by cases st <;> decide

theorem Causes.ofCode_code : ∀ c : Causes, Causes.ofCode c.code = c := by
  rintro ⟨a, b, c, d, e, f⟩
  revert a b c d e f
  decide

theorem Causes.code_lt (c : Causes) : c.code < 64 := by
  unfold Causes.code
  split_ifs <;> omega

/-! The bytes of a cell -/

theorem Note.body_length (n : Note) : n.body.length = 14 := by cases n <;> simp [Note.body]

theorem Request.body_length (r : Request) : r.body.length = 14 := by simp [Request.body]

theorem Response.body_length (r : Response) : r.body.length = 14 := by simp [Response.body]

/-- The head of a kind given by field list: kind, partition and flags, and the fields where they are laid out. -/
theorem Cell.head_of_not_laid {c : Cell} (h : c.isLaid = false) :
    c.head = c.kind.code :: BitVec.ofNat 8 (c.part * 64 + c.flags) :: c.fieldBody := by
  rcases c with _ | _ | ⟨_, _ | _ | _ | _ | _⟩ | _ | _ | _ | _ | _ | _ | _ | _ | _ | _ <;> cases h <;> rfl

theorem Cell.head_length (c : Cell) : c.head.length = 15 := by
  rcases c with _ | _ | ⟨_, _ | _ | _ | _ | _⟩ | _ | _ | _ | _ | _ | _ | _ | _ | _ | _ <;>
    simp [Cell.head, Note.body_length, Request.body_length, Response.body_length, fieldBody_length]

theorem Cell.bytes_length (c : Cell) : c.bytes.length = 16 := by simp [Cell.bytes, head_length]

theorem Cell.bytes_pass (c : Cell) : checkPasses c.bytes = true := by
  rw [Cell.bytes, checkPasses_append c.head_length, beq_self_eq_true]

theorem Cell.bytes_kind (c : Cell) : Kind.ofCode (c.bytes.getD 0 0#8) = some c.kind := c.kind.ofCode_code

/-- A damaged cell is a bad cell (R3). -/
theorem Cell.ofBytes_damaged (c : Cell) {i : Nat} {v : Byte} (hi : i < 16) (hv : c.bytes.getD i 0#8 ≠ v) :
    Received.ofBytes (c.bytes.set i v) = .bad := by
  have h : checkPasses (c.bytes.set i v) = false := checkPasses_set c.head_length hi hv
  simp [Received.ofBytes, h]

/-! Reading the bytes back -/

/-- Byte 1 of an MREQ (Table 1-6). -/
def Request.flags (r : Request) : Nat :=
  r.unusedFlags.toNat / 8 * 64 + (if r.noResponse then 32 else 0) + r.unusedFlags.toNat % 8 * 4 + r.op.code

theorem Request.flags_fields (r : Request) :
    r.flags < 256 ∧ r.flags % 4 = r.op.code ∧ r.flags.testBit 5 = r.noResponse ∧
      r.flags / 64 * 8 + r.flags / 4 % 8 = r.unusedFlags.toNat := by
  have hop := r.op.code_lt
  have huf := r.unusedFlags.isLt
  rw [Nat.testBit_eq_decide_div_mod_eq]
  unfold flags
  cases r.noResponse <;> simp <;> omega

/-- A request is read back from its cell. -/
theorem Request.ofBytes_bytes (r : Request) : Request.ofBytes (Cell.mreq r).bytes = r := by
  obtain ⟨hlt, hop, hnr, huf⟩ := r.flags_fields
  have hlen := (Cell.mreq r).bytes_length
  have hflags : fieldOf (Cell.mreq r).bytes 1 1 = r.flags := (fieldOf_eq rfl).trans (Nat.mod_eq_of_lt hlt)
  have hdest : BitVec.ofNat 16 (fieldOf (Cell.mreq r).bytes 2 2) = r.dest := word_fieldOf rfl (by norm_num)
  have htag : BitVec.ofNat 16 (fieldOf (Cell.mreq r).bytes 4 2) = r.tag := word_fieldOf rfl (by norm_num)
  have hobject : BitVec.ofNat 8 (fieldOf (Cell.mreq r).bytes 6 1) = r.object := byte_fieldOf (by omega)
  have hindex : BitVec.ofNat 8 (fieldOf (Cell.mreq r).bytes 7 1) = r.index := byte_fieldOf (by omega)
  have hfield : BitVec.ofNat 8 (fieldOf (Cell.mreq r).bytes 8 1) = r.field := byte_fieldOf (by omega)
  have hvalue : BitVec.ofNat 32 (fieldOf (Cell.mreq r).bytes 9 4) = r.value := word_fieldOf rfl (by norm_num)
  have htail : BitVec.ofNat 16 (fieldOf (Cell.mreq r).bytes 13 2) = r.unusedTail := word_fieldOf rfl (by norm_num)
  have hopcode : Op.ofCode r.op.code = r.op := by rw [← Nat.mod_eq_of_lt r.op.code_lt, Op.ofCode_code]
  rw [Request.ofBytes, hflags, hdest, htag, hobject, hindex, hfield, hvalue, htail, hop, hopcode, hnr, huf,
    BitVec.ofNat_toNat, BitVec.setWidth_eq]

/-- Byte 1 of an MRSP (Table 1-7). -/
def Response.flags (r : Response) : Nat := r.unusedFlags.toNat * 4 + r.op.code

theorem Response.flags_fields (r : Response) :
    r.flags < 256 ∧ r.flags % 4 = r.op.code ∧ r.flags / 4 = r.unusedFlags.toNat := by
  have hop := r.op.code_lt
  have huf := r.unusedFlags.isLt
  unfold flags
  omega

/-- A response is read back from its cell. -/
theorem Response.ofBytes_bytes (r : Response) : Response.ofBytes (Cell.mrsp r).bytes = r := by
  obtain ⟨hlt, hop, huf⟩ := r.flags_fields
  have hlen := (Cell.mrsp r).bytes_length
  have hflags : fieldOf (Cell.mrsp r).bytes 1 1 = r.flags := (fieldOf_eq rfl).trans (Nat.mod_eq_of_lt hlt)
  have hsrc : BitVec.ofNat 16 (fieldOf (Cell.mrsp r).bytes 2 2) = r.src := word_fieldOf rfl (by norm_num)
  have htag : BitVec.ofNat 16 (fieldOf (Cell.mrsp r).bytes 4 2) = r.tag := word_fieldOf rfl (by norm_num)
  have hobject : BitVec.ofNat 8 (fieldOf (Cell.mrsp r).bytes 6 1) = r.object := byte_fieldOf (by omega)
  have hindex : BitVec.ofNat 8 (fieldOf (Cell.mrsp r).bytes 7 1) = r.index := byte_fieldOf (by omega)
  have hfield : BitVec.ofNat 8 (fieldOf (Cell.mrsp r).bytes 8 1) = r.field := byte_fieldOf (by omega)
  have hvalue : BitVec.ofNat 32 (fieldOf (Cell.mrsp r).bytes 9 4) = r.value := word_fieldOf rfl (by norm_num)
  have hstatus : BitVec.ofNat 8 (fieldOf (Cell.mrsp r).bytes 13 1) = r.status := byte_fieldOf (by omega)
  have htail : BitVec.ofNat 8 (fieldOf (Cell.mrsp r).bytes 14 1) = r.unusedTail := byte_fieldOf (by omega)
  have hopcode : Op.ofCode r.op.code = r.op := by rw [← Nat.mod_eq_of_lt r.op.code_lt, Op.ofCode_code]
  rw [Response.ofBytes, hflags, hsrc, htag, hobject, hindex, hfield, hvalue, hstatus, htail, hop, hopcode, huf,
    BitVec.ofNat_toNat, BitVec.setWidth_eq]

/-- A TRIGGER note is read back from its cell's fields (Table 1-9); so are EVENT and STATE below. -/
theorem Note.defined_trigger {o : Addr} {p : Part} {l : Fin 8} {st occ : Nat} (hst : st ≤ stepMax)
    (hocc : occ ≤ counterMax) :
    Note.defined (Cell.note (.trigger o p l st occ)).bytes = some (.trigger o p l st occ) := by
  generalize hb : (Cell.note (.trigger o p l st occ)).bytes = bytes
  have hkind : fieldOf bytes 2 1 = 0 := hb ▸ rfl
  have ho : BitVec.ofNat 16 (fieldOf bytes 3 2) = o := hb ▸ word_fieldOf rfl (by norm_num)
  have hline : fieldOf bytes 5 1 = (p.val * 64 + l.val) % 256 ^ 1 := hb ▸ fieldOf_eq rfl
  have hstep : fieldOf bytes 6 5 = st % 256 ^ 5 := hb ▸ fieldOf_eq rfl
  have hcount : fieldOf bytes 11 2 = occ % 256 ^ 2 := hb ▸ fieldOf_eq rfl
  have hp := p.isLt
  have hl := l.isLt
  simp only [stepMax, counterMax] at hst hocc
  simp only [Note.defined, hkind, ho, hline, hstep, hcount, Option.some.injEq, Note.trigger.injEq, true_and]
  refine ⟨Fin.ext ?_, Fin.ext ?_, by omega, by omega⟩ <;> simp [Fin.ofNat] <;> omega

theorem Note.defined_event (o : Addr) (e : Event) :
    Note.defined (Cell.note (.event o e)).bytes = some (.event o e) := by
  generalize hb : (Cell.note (.event o e)).bytes = bytes
  have hkind : fieldOf bytes 2 1 = 1 := hb ▸ rfl
  have ho : BitVec.ofNat 16 (fieldOf bytes 3 2) = o := hb ▸ word_fieldOf rfl (by norm_num)
  have hcode : fieldOf bytes 5 1 = e.code.val % 256 ^ 1 := hb ▸ fieldOf_eq rfl
  have hlt : e.code.val % 256 ^ 1 % 16 = e.code.val := by omega
  simp only [Note.defined, hkind, ho, hcode, hlt, e.all_code, Option.map_some]

/-- The two presence flags of a STATE note (Table 1-9). -/
theorem Note.presence_flags : ∀ a b : Bool,
    (((if a then 2 else 0) + if b then 1 else 0) % 256 ^ 1).testBit 1 = a ∧
      (((if a then 2 else 0) + if b then 1 else 0) % 256 ^ 1).testBit 0 = b := by decide

/-- A step number that may be absent is read back from its flag and its field. -/
theorem Note.present_field {o : Option Nat} (h : o.getD 0 < 256 ^ 5) :
    (if o.isSome then some (o.getD 0 % 256 ^ 5) else none) = o := by
  rw [Nat.mod_eq_of_lt h]
  cases o <;> rfl

theorem Note.defined_state {p : Part} {st : RootState} {cs : Causes} {f li : Option Nat} (hf : StepFieldOpt f)
    (hli : li.getD 0 ≤ stepMax) :
    Note.defined (Cell.note (.state p st cs f li)).bytes = some (.state p st cs f li) := by
  generalize hb : (Cell.note (.state p st cs f li)).bytes = bytes
  have hkind : fieldOf bytes 2 1 = 2 := hb ▸ rfl
  have hflags : fieldOf bytes 1 1 = ((if f.isSome then 2 else 0) + if li.isSome then 1 else 0) % 256 ^ 1 :=
    hb ▸ fieldOf_eq rfl
  have hstate : fieldOf bytes 3 1 = (p.val * 64 + st.code) % 256 ^ 1 := hb ▸ fieldOf_eq rfl
  have hcauses : fieldOf bytes 4 1 = cs.code % 256 ^ 1 := hb ▸ fieldOf_eq rfl
  have hfreeze : fieldOf bytes 5 5 = f.getD 0 % 256 ^ 5 := hb ▸ fieldOf_eq rfl
  have hlast : fieldOf bytes 10 5 = li.getD 0 % 256 ^ 5 := hb ▸ fieldOf_eq rfl
  have hp := p.isLt
  have hst := st.code_lt
  have hcs := cs.code_lt
  have hstcode : (p.val * 64 + st.code) % 256 ^ 1 % 8 = st.code := by omega
  have hpcode : Fin.ofNat 4 ((p.val * 64 + st.code) % 256 ^ 1 / 64) = p := Fin.ext (by simp [Fin.ofNat]; omega)
  have hcscode : cs.code % 256 ^ 1 = cs.code := by omega
  obtain ⟨hflag1, hflag0⟩ := Note.presence_flags f.isSome li.isSome
  simp only [StepFieldOpt, StepField, freezeMax] at hf
  simp only [stepMax] at hli
  simp only [Note.defined, hkind, hflags, hflag1, hflag0, hstate, hcauses, hfreeze, hlast, hstcode, hpcode, hcscode,
    RootState.ofCode_code, Causes.ofCode_code, Option.map_some, Note.present_field (o := f) (by omega),
    Note.present_field (o := li) (by omega)]

/-! Notes -/

/-- The subtype and fields of a NOTE are read from fifteen bytes, whatever its CHECK. -/
theorem Note.defined_append {l : List Byte} (m : List Byte) (h : l.length = 15) :
    Note.defined (l ++ m) = Note.defined l := by
  have hf (i n : Nat) (hn : i + n ≤ 15) : fieldOf (l ++ m) i n = fieldOf l i n := fieldOf_append m (by omega)
  simp only [Note.defined, hf 1 1 (by omega), hf 2 1 (by omega), hf 3 1 (by omega), hf 3 2 (by omega), hf 4 1 (by omega),
    hf 5 1 (by omega), hf 5 5 (by omega), hf 6 5 (by omega), hf 10 5 (by omega), hf 11 2 (by omega)]

theorem Note.ofBytes_of_defined {bytes : List Byte} {n : Note} (h : Note.defined bytes = some n)
    (hb : n.body = (bodyOf bytes).toList) : Note.ofBytes bytes = n := by
  simp [Note.ofBytes, h, hb]

theorem Note.ofBytes_of_undefined {bytes : List Byte}
    (h : ∀ n ∈ Note.defined bytes, n.body ≠ (bodyOf bytes).toList) : Note.ofBytes bytes = .other (bodyOf bytes) := by
  unfold Note.ofBytes
  split
  · next n hn => rw [if_neg (h n hn)]
  · rfl

theorem Note.bodyOf_bytes (n : Note) : (bodyOf (Cell.note n).bytes).toList = n.body := by
  rw [bodyOf_toList (by rw [Cell.bytes_length]; omega)]
  exact List.take_left' n.body_length

/-- A note is read back from its cell, one kept as its bytes included (R17). -/
theorem Note.ofBytes_bytes {n : Note} (h : n.WellFormed) : Note.ofBytes (Cell.note n).bytes = n := by
  have hbody := n.bodyOf_bytes
  cases n with
  | trigger o p l st occ => exact ofBytes_of_defined (defined_trigger h.1 h.2.2) hbody.symm
  | event o e => exact ofBytes_of_defined (defined_event o e) hbody.symm
  | state p st cs f li => exact ofBytes_of_defined (defined_state h.1 h.2) hbody.symm
  | other body =>
    have hvec : bodyOf (Cell.note (.other body)).bytes = body := Vector.toList_inj.mp hbody
    have hdef : Note.defined (Cell.note (.other body)).bytes = Note.defined (Kind.note.code :: body.toList) :=
      Note.defined_append _ (Cell.note (.other body)).head_length
    rw [ofBytes_of_undefined, hvec]
    rw [hdef, hvec]
    exact h

/-! Reading a cell -/

/-- PART is read back from byte 1 (Table 1-1). -/
theorem Part.read_header (p : Part) : Fin.ofNat 4 (p.val * 64 % 256 ^ 1 / 64) = p := by
  revert p; decide

/-- A good cell of a kind whose bytes chapter 1 sets out is read back in full. -/
theorem Received.ofBytes_laid {c : Cell} (hf : c.Fits) (hl : c.isLaid = true) : Received.ofBytes c.bytes = .cell c := by
  have hpass := c.bytes_pass
  have hkind := c.bytes_kind
  rcases c with _ | ⟨p, s, age⟩ | ⟨p, _ | _ | _ | _ | _⟩ | r | _ | _ | _ | _ | _ | _ | _ | n | r <;>
    simp only [Cell.isLaid, Bool.false_eq_true] at hl <;>
    simp only [Received.ofBytes, hpass, hkind, Cell.kind, Bool.not_true, Bool.false_eq_true, if_false]
  · have hp : fieldOf (Cell.step p s age).bytes 1 1 = p.val * 64 % 256 ^ 1 := fieldOf_eq rfl
    have hs : fieldOf (Cell.step p s age).bytes 2 5 = s % 256 ^ 5 := fieldOf_eq rfl
    have ha : fieldOf (Cell.step p s age).bytes 7 2 = age % 256 ^ 2 := fieldOf_eq rfl
    obtain ⟨hstep, hage⟩ := hf
    simp only [StepField, freezeMax] at hstep
    rw [hp, hs, ha, Part.read_header, Nat.mod_eq_of_lt (show s < 256 ^ 5 by omega),
      show age % 256 ^ 2 % 4096 = age by omega]
  · have hp : fieldOf (Cell.run p .abort).bytes 1 1 = p.val * 64 % 256 ^ 1 := fieldOf_eq rfl
    rw [hp, Part.read_header]
  · rw [Request.ofBytes_bytes]
  · rw [Note.ofBytes_bytes hf]
  · rw [Response.ofBytes_bytes]

/-- Of a good cell of another kind the kind is read. -/
theorem Received.ofBytes_not_laid {c : Cell} (hl : c.isLaid = false) : Received.ofBytes c.bytes = .unlaid c.kind := by
  have hpass := c.bytes_pass
  have hkind := c.bytes_kind
  rcases c with _ | ⟨p, s, age⟩ | ⟨p, _ | _ | _ | _ | _⟩ | r | _ | _ | _ | _ | _ | _ | _ | n | r <;>
    simp only [Cell.isLaid, Bool.true_eq_false] at hl <;>
    simp only [Received.ofBytes, hpass, hkind, Cell.kind, Bool.not_true, Bool.false_eq_true, if_false]

/-! Field-list kinds -/

/-- Byte 1 of a field-list kind: the partition, and at most one flag, the mark (R1, log entry 5). -/
theorem Cell.header_of_not_laid {c : Cell} (hl : c.isLaid = false) :
    c.head.getD 1 0#8 = BitVec.ofNat 8 (c.part * 64) ∨
      c.mark = some true ∧ ∃ k < 6, c.head.getD 1 0#8 = BitVec.ofNat 8 (c.part * 64 + 2 ^ k) := by
  rw [head_of_not_laid hl]
  by_cases hm : c.mark = some true ∧ Config.markInHeader c.kind = true
  · exact .inr ⟨hm.1, _, Nat.mod_lt (Config.flagPlace c.kind) (by decide), by rw [flags, if_pos hm]; rfl⟩
  · exact .inl (by rw [flags, if_neg hm]; rfl)

theorem Cell.field_in_body {c : Cell} {f : Field} (hf : f ∈ c.fields) : beBytes f.bytes f.value <:+: c.fieldBody :=
  laidOut_infix _ _ _ _ ((inOrder_perm _ _).mem_iff.mpr hf)

/-! Cells that are passed on (log entry 28) -/

/-- The body of a request read from bytes is those bytes. -/
theorem Request.ofBytes_body {bytes : List Byte} (h : bytes.length = 16) :
    (Request.ofBytes bytes).body = (bytes.drop 1).take 14 := by
  have hlt : fieldOf bytes 1 1 < 256 := fieldOf_lt bytes 1 1
  have hflags : (Request.ofBytes bytes).flags = fieldOf bytes 1 1 := by
    unfold flags Request.ofBytes
    rw [Op.code_ofCode _ (Nat.mod_lt _ (by decide)), Nat.testBit_eq_decide_div_mod_eq, BitVec.toNat_ofNat]
    split <;> simp_all <;> omega
  have hbody : (Request.ofBytes bytes).body = beBytes 1 (fieldOf bytes 1 1) ++ beBytes 2 (fieldOf bytes 2 2)
      ++ beBytes 2 (fieldOf bytes 4 2) ++ [bytes.getD 6 0#8, bytes.getD 7 0#8, bytes.getD 8 0#8]
      ++ beBytes 4 (fieldOf bytes 9 4) ++ beBytes 2 (fieldOf bytes 13 2) := by
    change beBytes 1 (Request.ofBytes bytes).flags ++ _ ++ _ ++ _ ++ _ ++ _ = _
    rw [hflags, Request.ofBytes, toNat_fieldOf bytes (by norm_num), toNat_fieldOf bytes (by norm_num),
      toNat_fieldOf bytes (by norm_num), toNat_fieldOf bytes (by norm_num), byte_fieldOf (by omega),
      byte_fieldOf (by omega), byte_fieldOf (by omega)]
  rw [hbody, beBytes_fieldOf (by omega), beBytes_fieldOf (by omega), beBytes_fieldOf (by omega),
    beBytes_fieldOf (by omega), beBytes_fieldOf (by omega)]
  match bytes, h with
  | [_, _, _, _, _, _, _, _, _, _, _, _, _, _, _, _], _ => rfl

/-- The body of a response read from bytes is those bytes. -/
theorem Response.ofBytes_body {bytes : List Byte} (h : bytes.length = 16) :
    (Response.ofBytes bytes).body = (bytes.drop 1).take 14 := by
  have hlt : fieldOf bytes 1 1 < 256 := fieldOf_lt bytes 1 1
  have hflags : (Response.ofBytes bytes).flags = fieldOf bytes 1 1 := by
    unfold flags Response.ofBytes
    rw [Op.code_ofCode _ (Nat.mod_lt _ (by decide)), BitVec.toNat_ofNat]
    omega
  have hbody : (Response.ofBytes bytes).body = beBytes 1 (fieldOf bytes 1 1) ++ beBytes 2 (fieldOf bytes 2 2)
      ++ beBytes 2 (fieldOf bytes 4 2) ++ [bytes.getD 6 0#8, bytes.getD 7 0#8, bytes.getD 8 0#8]
      ++ beBytes 4 (fieldOf bytes 9 4) ++ [bytes.getD 13 0#8, bytes.getD 14 0#8] := by
    change beBytes 1 (Response.ofBytes bytes).flags ++ _ ++ _ ++ _ ++ _ ++ _ = _
    rw [hflags, Response.ofBytes, toNat_fieldOf bytes (by norm_num), toNat_fieldOf bytes (by norm_num),
      toNat_fieldOf bytes (by norm_num), byte_fieldOf (by omega), byte_fieldOf (by omega), byte_fieldOf (by omega),
      byte_fieldOf (by omega), byte_fieldOf (by omega)]
  rw [hbody, beBytes_fieldOf (by omega), beBytes_fieldOf (by omega), beBytes_fieldOf (by omega),
    beBytes_fieldOf (by omega)]
  match bytes, h with
  | [_, _, _, _, _, _, _, _, _, _, _, _, _, _, _, _], _ => rfl

/-- A cell with the kind and the body of good bytes has those bytes. -/
theorem Cell.bytes_eq {c : Cell} {bytes : List Byte} (hp : checkPasses bytes = true)
    (hk : Kind.ofCode (bytes.getD 0 0#8) = some c.kind) (hb : c.head = c.kind.code :: (bytes.drop 1).take 14) :
    c.bytes = bytes := by
  obtain ⟨hl, he⟩ := eq_of_checkPasses hp
  have hhead : c.head = bytes.take 15 := by
    rw [hb, Kind.code_of_ofCode hk]
    match bytes, hl with
    | _ :: _, _ => rfl
  rw [Cell.bytes, hhead, ← he]

/-- An MREQ, NOTE or MRSP that is read goes on with the bytes it came with (R48, R50). -/
theorem Received.bytes_of_passed {c : Cell} {bytes : List Byte} (h : Received.ofBytes bytes = .cell c)
    (hk : c.kind = .mreq ∨ c.kind = .note ∨ c.kind = .mrsp) : c.bytes = bytes := by
  cases hp : checkPasses bytes
  · simp [Received.ofBytes, hp] at h
  have hl := (eq_of_checkPasses hp).1
  cases hcode : Kind.ofCode (bytes.getD 0 0#8) with
  | none =>
    simp only [Received.ofBytes, hp, hcode, Bool.not_true, Bool.false_eq_true, if_false] at h
    cases h
  | some k =>
    simp only [Received.ofBytes, hp, hcode, Bool.not_true, Bool.false_eq_true, if_false] at h
    cases k <;> cases h <;> simp [Cell.kind] at hk
    · exact Cell.bytes_eq hp hcode (congrArg (Kind.mreq.code :: ·) (Request.ofBytes_body hl))
    · have hbody := (Machine.Note.ofBytes_body bytes).trans (bodyOf_toList (by omega))
      exact Cell.bytes_eq hp hcode (congrArg (Kind.note.code :: ·) hbody)
    · exact Cell.bytes_eq hp hcode (congrArg (Kind.mrsp.code :: ·) (Response.ofBytes_body hl))

/-- Settles O12: the layout of sixteen bytes, CHECK's hold on each of them, and the way back. -/
theorem cellBytesReadBack : Obligations.CellBytesReadBack := by
  intro c i v bytes
  refine ⟨fun hf => ⟨⟨c.bytes_length, c.bytes_pass, ?_⟩, c.ofBytes_damaged⟩, fun hl => ?_, Received.bytes_of_passed⟩
  · cases hl : c.isLaid
    · exact Received.ofBytes_not_laid hl
    · exact Received.ofBytes_laid hf hl
  · have hbody : c.head.drop 2 = c.fieldBody := by rw [Cell.head_of_not_laid hl]; rfl
    rw [hbody]
    exact ⟨Cell.header_of_not_laid hl, fun f => Cell.field_in_body, c.fieldBody_used⟩

end Sys2Proof
end

section
/-! SUPPORT. What every operation of the hub keeps: each queue and table within its size, each stored field within its
range, operation by operation in the order of the model (R51, R59, R71, R105, R122, R159, R167; Tables 2-1, 5-2, 6-1, 8-1 and
9-1), and the statement that every step does. -/

namespace Sys2Proof.Machine

open Sys2Proof

/-- A port within Table 2-1, but for a bad-cell run of 4 where `loose` says that its aligned state is being left (R23). -/
def Port.Within (loose : Prop) (p : Port) : Prop :=
  p.attempts ≤ 15 ∧ p.badRun ≤ 4 ∧ p.linkLat ≤ 4095 ∧ p.pathLat ≤ 16383 ∧
    (loose ∨ (p.state = .measuring ∨ p.state = .waitEnum ∨ p.state = .up → p.badRun ≤ 3)) ∧
    ∀ k : Fin 8, look p.counters k ≤ counterMax

theorem Port.inRange_iff_within (p : Port) : p.InRange ↔ p.Within False := by simp [Port.InRange, Port.Within]

/-- A change of a context that keeps the hold queue (R71) and the second-fault count (R80) within their bounds. -/
structure Context.Kept (c d : Context) : Prop where
  queue : c.queue.length ≤ 128 → d.queue.length ≤ 128
  second : c.second ≤ counterMax → d.second ≤ counterMax

/-- What is within its bounds in `s` is within them in `t`, each thing by itself; the port `x` of `loose = some x` may be
about to leave its aligned state. -/
structure Keeps (loose : Option PortId) (s t : State) : Prop where
  egress : ∀ n, (s.egress n).Bounded → (t.egress n).Bounded
  noteQ : s.cf.noteQ.length ≤ 16 → t.cf.noteQ.length ≤ 16
  respQ : s.cf.respQ.length ≤ 8 → t.cf.respQ.length ≤ 8
  requests : s.ma.queue.length ≤ 4 → t.ma.queue.length ≤ 4
  captures : s.tu.captures.length ≤ 16 → t.tu.captures.length ≤ 16
  ctx : ∀ p, (s.ctx p).Kept (t.ctx p)
  swaps : ∀ p, (s.dpart p).swaps.length ≤ 4 → (t.dpart p).swaps.length ≤ 4
  port : ∀ x, (s.port x).InRange → (t.port x).Within (loose = some x)
  pathLat : s.lp.pathLat ≤ 16383 → t.lp.pathLat ≤ 16383
  timer : s.ref.timer ≤ 8192 → t.ref.timer ≤ 8192
  entry : ∀ i, (look s.dg.entries i).InRange → (look t.dg.entries i).InRange
  trig : ∀ i, (s.trig i).InRange → (t.trig i).InRange
  hub : s.ma.hub.InRange → t.ma.hub.InRange
  hubCounter : ∀ k, s.hubCounter k ≤ counterMax → t.hubCounter k ≤ counterMax
  rootRec : ∀ p, (s.rootRec p).InRange → (t.rootRec p).InRange

theorem Keeps.queuesBounded {s t : State} (h : Keeps none s t) (hs : s.QueuesBounded) : t.QueuesBounded := by
  obtain ⟨hegress, hnotes, hresps, hreqs, hcaps, hparts⟩ := hs
  exact ⟨fun n => h.egress n (hegress n), h.noteQ hnotes, h.respQ hresps, h.requests hreqs, h.captures hcaps,
    fun p => ⟨(h.ctx p).queue (hparts p).1, h.swaps p (hparts p).2⟩⟩

theorem Keeps.fieldsInRange {s t : State} (h : Keeps none s t) (hs : s.FieldsInRange) : t.FieldsInRange := by
  obtain ⟨hports, hlat, htimer, hentries, htrigs, hhub, hcounters, hparts⟩ := hs
  refine ⟨fun x hx => ?_, h.pathLat hlat, h.timer htimer, fun i => h.entry i (hentries i), fun i => h.trig i (htrigs i),
    h.hub hhub, fun k => h.hubCounter k (hcounters k),
    fun p => ⟨h.rootRec p (hparts p).1, (h.ctx p).second (hparts p).2⟩⟩
  simpa [Port.inRange_iff_within] using h.port x (hports x hx)

theorem Context.Kept.refl (c : Context) : c.Kept c := ⟨id, id⟩

theorem Context.Kept.trans {c d e : Context} (h : c.Kept d) (h' : d.Kept e) : c.Kept e :=
  ⟨fun hc => h'.queue (h.queue hc), fun hc => h'.second (h.second hc)⟩

theorem Port.Within.weaken {p : Port} {a b : Prop} (h : p.Within a) (hab : a → b) : p.Within b :=
  ⟨h.1, h.2.1, h.2.2.1, h.2.2.2.1, h.2.2.2.2.1.imp_left hab, h.2.2.2.2.2⟩

theorem Keeps.refl (s : State) : Keeps none s s where
  egress _ := id
  noteQ := id
  respQ := id
  requests := id
  captures := id
  ctx p := .refl _
  swaps _ := id
  port x := by simp [Port.inRange_iff_within]
  pathLat := id
  timer := id
  entry _ := id
  trig _ := id
  hub := id
  hubCounter _ := id
  rootRec _ := id

section
variable {l : Option PortId} {s t : State}

theorem Keeps.weaken (h : Keeps none s t) : Keeps l s t :=
  { h with port := fun x hx => (h.port x hx).weaken (by simp) }

/-! The writers of State -/

theorem Keeps.setNow (h : Keeps l s t) (v : Nat) : Keeps l s (t.setNow v) := { h with }

theorem Keeps.setOwn (h : Keeps l s t) (v : ModelOwn) : Keeps l s (t.setOwn v) := { h with }

theorem Keeps.setHu (h : Keeps l s t) (v : HoldUnit) : Keeps l s (t.setHu v) := { h with }

theorem Keeps.setRef (h : Keeps l s t) {v : RefUnit} (hv : t.ref.timer ≤ 8192 → v.timer ≤ 8192) :
    Keeps l s (t.setRef v) :=
  { h with timer := fun hs => hv (h.timer hs) }

theorem Keeps.setLp (h : Keeps l s t) {v : LinkPorts} (hd : v.dports = t.lp.dports) (hu : v.uport = t.lp.uport)
    (hp : t.lp.pathLat ≤ 16383 → v.pathLat ≤ 16383) : Keeps l s (t.setLp v) :=
  { h with
    port := fun x hx => by
      have : (t.setLp v).port x = t.port x := by cases x <;> simp [State.port, hd, hu]
      rw [this]; exact h.port x hx
    pathLat := fun hs => hp (h.pathLat hs) }

/-- A port is written; with it the port that may leave its aligned state may become another. -/
theorem Keeps.setPort_from {l' : Option PortId} (h : Keeps l s t) {x : PortId} {q : Port}
    (hq : (t.port x).Within (l = some x) → q.Within (l' = some x)) (hl : ∀ y, x ≠ y → l = some y → l' = some y) :
    Keeps l' s (t.setPort x q) where
  egress := by simpa using h.egress
  noteQ := by simpa using h.noteQ
  respQ := by simpa using h.respQ
  requests := by simpa using h.requests
  captures := by simpa using h.captures
  ctx := by simpa using h.ctx
  swaps := by simpa using h.swaps
  port y hy := by
    by_cases e : x = y
    · subst e; simpa using hq (h.port x hy)
    · simpa [e] using (h.port y hy).weaken (hl y e)
  pathLat := by cases x <;> exact h.pathLat
  timer := by simpa using h.timer
  entry := by simpa using h.entry
  trig := by simpa using h.trig
  hub := by simpa using h.hub
  hubCounter := by simpa [State.hubCounter] using h.hubCounter
  rootRec := by simpa using h.rootRec

theorem Keeps.setPort (h : Keeps l s t) {x : PortId} {q : Port}
    (hq : (t.port x).Within (l = some x) → q.Within (l = some x)) : Keeps l s (t.setPort x q) :=
  h.setPort_from hq fun _ _ => id

theorem Keeps.setDLink (h : Keeps l s t) (n : Dn) (v : DLink) : Keeps l s (t.setDLink n v) :=
  h.setLp rfl rfl id

theorem Keeps.setCf (h : Keeps l s t) {v : Forwarder} (he : v.egress = t.cf.egress)
    (hn : t.cf.noteQ.length ≤ 16 → v.noteQ.length ≤ 16) (hr : t.cf.respQ.length ≤ 8 → v.respQ.length ≤ 8) :
    Keeps l s (t.setCf v) :=
  { h with
    egress := fun n => by simpa [State.egress, he] using h.egress n
    noteQ := fun hs => hn (h.noteQ hs)
    respQ := fun hs => hr (h.respQ hs) }

theorem Keeps.setRoute (h : Keeps l s t) (p : Part) (v : RouteEntry) : Keeps l s (t.setRoute p v) :=
  h.setCf rfl id id

theorem Keeps.setSlots (h : Keeps l s t) (p : Part) (v : Slots) : Keeps l s (t.setSlots p v) := h.setCf rfl id id

theorem Keeps.setEgress (h : Keeps l s t) {n : Dn} {g : Egress} (hg : (t.egress n).Bounded → g.Bounded) :
    Keeps l s (t.setEgress n g) :=
  { h with
    egress := fun k hk => by
      by_cases e : n = k
      · subst e; rw [State.egress_setEgress_self]; exact hg (h.egress n hk)
      · rw [State.egress_setEgress_ne _ _ _ _ e]; exact h.egress k hk }

theorem Keeps.setCtx (h : Keeps l s t) {p : Part} {c : Context} (hc : (t.ctx p).Kept c) : Keeps l s (t.setCtx p c) :=
  { h with
    ctx := fun q => by
      by_cases e : p = q
      · subst e; rw [State.ctx_setCtx_self]; exact (h.ctx p).trans hc
      · rw [State.ctx_setCtx_ne _ _ _ _ e]; exact h.ctx q }

theorem Keeps.setDg (h : Keeps l s t) {v : DomainGen}
    (he : ∀ i, (look t.dg.entries i).InRange → (look v.entries i).InRange)
    (hp : ∀ p, (look t.dg.parts p).swaps.length ≤ 4 → (look v.parts p).swaps.length ≤ 4) : Keeps l s (t.setDg v) :=
  { h with
    entry := fun i hi => he i (h.entry i hi)
    swaps := fun p hs => hp p (h.swaps p hs) }

theorem Keeps.setDPart (h : Keeps l s t) {p : Part} {d : DomainPart}
    (hd : (t.dpart p).swaps.length ≤ 4 → d.swaps.length ≤ 4) : Keeps l s (t.setDPart p d) :=
  h.setDg (fun _ => id) fun q hq => by
    by_cases e : p = q
    · subst e; rw [look_upd_self]; exact hd hq
    · rw [look_upd_ne _ _ _ _ e]; exact hq

theorem Keeps.setOut (h : Keeps l s t) (i : Fin 16) (o : OutLine) : Keeps l s (t.setOut i o) :=
  h.setDg (fun _ => id) fun _ => id

theorem Keeps.setTu (h : Keeps l s t) {v : TriggerUnit}
    (hl : ∀ i, (t.trig i).InRange → (look v.lines i).InRange)
    (hc : t.tu.captures.length ≤ 16 → v.captures.length ≤ 16) : Keeps l s (t.setTu v) :=
  { h with
    trig := fun i hi => hl i (h.trig i hi)
    captures := fun hs => hc (h.captures hs) }

theorem Keeps.setTrig (h : Keeps l s t) {i : Fin 8} {v : TrigLine} (hv : (t.trig i).InRange → v.InRange) :
    Keeps l s (t.setTrig i v) :=
  h.setTu (fun j hj => by
    by_cases e : i = j
    · subst e; rw [look_upd_self]; exact hv hj
    · rw [look_upd_ne _ _ _ _ e]; exact hj) id

theorem Keeps.setStall (h : Keeps l s t) (i : Fin 4) (v : StallLine) : Keeps l s (t.setStall i v) := h.setHu _

theorem Keeps.setTable (h : Keeps l s t) (p : Part) (v : HoldTable) : Keeps l s (t.setTable p v) := h.setHu _

theorem Keeps.setRootRec (h : Keeps l s t) {p : Part} {r : RootRec} (hr : (t.rootRec p).InRange → r.InRange) :
    Keeps l s (t.setRootRec p r) :=
  { h with
    rootRec := fun q hq => by
      by_cases e : p = q
      · subst e; rw [State.rootRec_setRootRec_self]; exact hr (h.rootRec p hq)
      · rw [State.rootRec_setRootRec_ne _ _ _ _ e]; exact h.rootRec q hq }

theorem Keeps.setMa (h : Keeps l s t) {v : Agent} (hq : t.ma.queue.length ≤ 4 → v.queue.length ≤ 4)
    (hh : t.ma.hub.InRange → v.hub.InRange)
    (hc : ∀ k, t.hubCounter k ≤ counterMax → look v.counters k ≤ counterMax) : Keeps l s (t.setMa v) :=
  { h with
    requests := fun hs => hq (h.requests hs)
    hub := fun hs => hh (h.hub hs)
    hubCounter := fun k hs => hc k (h.hubCounter k hs) }

theorem Keeps.foldl {α : Type} {f : State → α → State} (hf : ∀ u a, Keeps l s u → Keeps l s (f u a)) :
    ∀ (as : List α) {t : State}, Keeps l s t → Keeps l s (as.foldl f t)
  | [], _, h => h
  | a :: as, t, h => Keeps.foldl hf as (hf t a h)

end

section
variable {l : Option PortId} {s t : State}

/-! Flags and queues -/

theorem Keeps.raise (h : Keeps l s t) (e : Event) : Keeps l s (Machine.raise e t) := by
  obtain ⟨_, _, hr, -, -⟩ := raise_frame e t
  rw [hr]
  refine (h.setMa ?_ ?_ fun _ => ?_).setOwn _ <;> exact id

theorem Keeps.pushNote (h : Keeps l s t) (n : Note) : Keeps l s (Machine.pushNote n t) := h.setOwn _

theorem Keeps.useChoices (h : Keeps l s t) (k : Nat) : Keeps l s (Machine.useChoices k t) := h.setOwn _

theorem Keeps.toRoot (h : Keeps l s t) (r : Report) : Keeps l s (Machine.toRoot r t) := h.setOwn _

theorem Keeps.raiseIfSaturated (h : Keeps l s t) (k : Nat) : Keeps l s (Machine.raiseIfSaturated k t) := by
  rcases raiseIfSaturated_cases k t with hr | hr <;> rw [hr]
  exacts [h, h.raise _]

theorem Port.Within.count {loose : Prop} {p : Port} (h : p.Within loose) (k : Fin 8) :
    Port.Within loose { p with counters := upd p.counters k (satSucc (look p.counters k)) } := by
  obtain ⟨ha, hb, hl, hp, hr, hc⟩ := h
  refine ⟨ha, hb, hl, hp, hr, fun j => ?_⟩
  rw [look_upd]
  split
  exacts [satSucc_le _ (hc k), hc j]

theorem Keeps.bump (h : Keeps l s t) (x : PortId) (k : Fin 8) : Keeps l s (Machine.bump x k t) :=
  (h.setPort fun hp => hp.count k).raiseIfSaturated _

theorem Keeps.bumpHub (h : Keeps l s t) (k : Fin 3) : Keeps l s (Machine.bumpHub k t) := by
  refine Keeps.raiseIfSaturated (h.setMa ?_ ?_ fun j hj => ?_) _
  · exact id
  · exact id
  · rw [look_upd]
    split
    · next e => exact satSucc_le _ (e ▸ hj)
    · exact hj

theorem Keeps.placeNote (h : Keeps l s t) (n : Note) : Keeps l s (Machine.placeNote n t) := by
  rcases placeNote_cases n t with ⟨-, hp⟩ | ⟨-, hroom, hp⟩ | ⟨-, -, hp⟩ <;> rw [hp]
  · exact h
  · exact h.setCf rfl (fun _ => by simpa using hroom) id
  · exact (h.bump _ _).raise _

theorem Keeps.placeResponse (h : Keeps l s t) (r : Response) : Keeps l s (Machine.placeResponse r t) := by
  rcases placeResponse_cases r t with ⟨-, hp⟩ | ⟨-, hroom, hp⟩ | ⟨-, -, hp⟩ <;> rw [hp]
  · exact h
  · exact h.setCf rfl id fun _ => by simpa using hroom
  · exact h.bump _ _

theorem Keeps.settleNotes : ∀ (k : Nat) {t : State}, Keeps l s t → Keeps l s (Machine.settleNotes k t)
  | 0, _, h => h.setOwn _
  | k + 1, t, h => by
    unfold Machine.settleNotes
    split
    · exact h
    · exact Keeps.settleNotes k (Keeps.foldl (fun _ n hu => hu.placeNote n) _ ((h.setOwn _).useChoices _))

theorem Keeps.writeFault (h : Keeps l s t) (p : Part) (r : FaultReport) : Keeps l s (Machine.writeFault p r t) := by
  rcases writeFault_cases p r t with ⟨-, hw⟩ | ⟨-, hw⟩ <;> rw [hw]
  exacts [h.toRoot _, h.setSlots _ _]

theorem Keeps.offerHalt (h : Keeps l s t) (p : Part) (c : Fin 4) (r : HaltReq) :
    Keeps l s (Machine.offerHalt p c r t) := by
  unfold Machine.offerHalt
  split
  · exact h.toRoot _
  · split
    · exact h.setSlots _ _
    · split
      exacts [h.setSlots _ _, h]

theorem Keeps.writePace (h : Keeps l s t) (p : Part) (v : Bool) : Keeps l s (Machine.writePace p v t) := by
  unfold Machine.writePace
  split
  exacts [h.setRootRec id, h.setSlots _ _]

theorem Keeps.clearSlots (h : Keeps l s t) (p : Part) : Keeps l s (Machine.clearSlots p t) := h.setSlots _ _

theorem Keeps.settlePace (h : Keeps l s t) (p : Part) : Keeps l s (Machine.settlePace p t) := by
  unfold Machine.settlePace
  dsimp only
  split
  · exact h
  · have hset := h.setCtx (c := { t.ctx p with pace := t.paceOf p }) (p := p) ⟨id, id⟩
    have hwritten := hset.writePace p (t.paceOf p)
    split <;> split
    exacts [hset.raise _, hwritten.raise _, hset, hwritten]

theorem Keeps.settlePaces (h : Keeps l s t) : Keeps l s (Machine.settlePaces t) :=
  Keeps.foldl (fun _ p hu => hu.settlePace p) _ h

/-! Domain generator -/

theorem Keeps.executeSwap (h : Keeps l s t) (p : Part) (n : Nat) : Keeps l s (Machine.executeSwap p n t) := by
  unfold Machine.executeSwap
  split
  · next w ws hw =>
    split
    · exact h.setDPart fun hl => by rw [hw] at hl; exact Nat.le_of_succ_le hl
    · exact h
  · exact h

theorem Keeps.driveLines (h : Keeps l s t) (p : Part) (n : Nat) : Keeps l s (Machine.driveLines p n t) :=
  h.setDg (fun _ => id) fun _ => id

theorem Keeps.restLines (h : Keeps l s t) (p : Part) : Keeps l s (Machine.restLines p t) :=
  h.setDg (fun _ => id) fun _ => id

theorem Keeps.executeDomains (h : Keeps l s t) (p : Part) (n : Nat) : Keeps l s (Machine.executeDomains p n t) :=
  (h.executeSwap p n).driveLines p n

theorem Keeps.startDomains (h : Keeps l s t) (p : Part) : Keeps l s (Machine.startDomains p t) :=
  (h.setDPart fun _ => Nat.zero_le _).restLines p

theorem Keeps.abortDomains (h : Keeps l s t) (p : Part) : Keeps l s (Machine.abortDomains p t) :=
  (h.setDPart fun _ => Nat.zero_le _).restLines p

/-- A SWAP joins a record that holds fewer than four (R105). -/
theorem Keeps.takeSwap (h : Keeps l s t) (p : Part) (w : Nat) : Keeps l s (Machine.takeSwap p w t) := by
  unfold Machine.takeSwap
  split
  · exact h
  · split
    case h_1 | h_2 => exact h
    all_goals
      split
      · exact h.bumpHub 1
      · next hrefuse =>
        refine h.setDPart fun _ => ?_
        have hroom : (t.dpart p).swaps.length < 4 := by
          simp only [State.refusesSwap, Bool.not_eq_true, Bool.or_eq_false_iff, decide_eq_false_iff_not] at hrefuse
          omega
        simpa using hroom

/-! Hold unit -/

theorem Keeps.announceOn (h : Keeps l s t) (p : Part) (m : Nat) : Keeps l s (Machine.announceOn p m t) := by
  unfold Machine.announceOn
  dsimp only
  split
  exacts [(h.setTable _ _).toRoot _, (h.setTable _ _).setSlots _ _]

theorem Keeps.announceOff (h : Keeps l s t) (p : Part) : Keeps l s (Machine.announceOff p t) := by
  have ht := h.setTable p { t.table p with announced := none }
  unfold Machine.announceOff
  dsimp only
  split
  · split
    exacts [ht.toRoot _, ht]
  · split
    · exact ht.setSlots _ _
    · split
      exacts [ht.setSlots _ _, ht]

theorem Keeps.followHold (h : Keeps l s t) (p : Part) : Keeps l s (Machine.followHold p t) := by
  unfold Machine.followHold
  split
  · exact h
  · split
    · exact h.announceOff p
    · exact h.announceOn p _
    · split
      exacts [h.announceOn p _, h]

theorem Keeps.setEntry (h : Keeps l s t) (p : Part) (i : Fin 10) (v : Option Nat) :
    Keeps l s (Machine.setEntry p i v t) := by
  unfold Machine.setEntry
  split
  exacts [h, (h.setTable _ _).followHold p]

theorem Keeps.takeHold (h : Keeps l s t) (p : Part) (n : Dn) (m : Option Nat) :
    Keeps l s (Machine.takeHold p n m t) := by
  unfold Machine.takeHold
  split
  · exact h.setEntry _ _ _
  · split
    · exact h
    · split <;> exact h.setEntry _ _ _

theorem Keeps.dropChildHolds (h : Keeps l s t) (n : Dn) : Keeps l s (Machine.dropChildHolds n t) :=
  Keeps.foldl (fun _ _ hu => hu.setEntry _ _ _) _ h

theorem Keeps.clearHolds (h : Keeps l s t) (p : Part) : Keeps l s (Machine.clearHolds p t) := h.setTable _ _

theorem Keeps.sampleStalls (h : Keeps l s t) (p : Part) (m : Nat) : Keeps l s (Machine.sampleStalls p m t) :=
  Keeps.foldl (fun _ _ hu => hu.setEntry _ _ _) _ (Keeps.useChoices (h.setHu _) _)

/-! Trigger unit -/

theorem Keeps.setPrev (h : Keeps l s t) (p : Part) (i : Fin 8) (v : Option Bool) :
    Keeps l s (Machine.setPrev p i v t) := h.setCtx ⟨id, id⟩

theorem Keeps.addCapture (h : Keeps l s t) (c : Capture) : Keeps l s (Machine.addCapture c t) := by
  unfold Machine.addCapture
  split
  · next hroom => exact h.setTu (fun _ => id) fun _ => by simpa using hroom
  · dsimp only
    split
    · next hfull _ =>
      refine Keeps.raise (Keeps.bumpHub (h.setTu (fun _ => ?_) fun hl => ?_) 2) _
      · exact id
      · simp only [List.length_append, List.length_drop, List.length_cons, List.length_nil]
        omega
    · exact (h.bumpHub 2).raise _

/-- A firing brings the count to 0, below the target, and the firings to at most 65535 (R116, R111). -/
theorem TrigLine.InRange.fire {a : TrigLine} (h : a.InRange) (e : Bool) :
    TrigLine.InRange { a with count := 0, fired := satSucc a.fired, enable := e } := by
  obtain ⟨hlow, hhigh, -, hfired⟩ := h
  exact ⟨hlow, hhigh, hlow, satSucc_le _ hfired⟩

theorem Keeps.fireLine (h : Keeps l s t) (p : Part) (i : Fin 8) (n : Nat) : Keeps l s (Machine.fireLine p i n t) := by
  have hfired := h.setTrig fun hl => TrigLine.InRange.fire (a := t.trig i) hl ((t.trig i).enable && (t.trig i).repeats)
  have hcaptured := (hfired.raiseIfSaturated (t.trig i).fired).addCapture ⟨i, p, n, satSucc (t.trig i).fired⟩
  unfold Machine.fireLine
  dsimp only
  split
  exacts [(hcaptured.pushNote _).offerHalt _ _ _, hcaptured.pushNote _]

theorem Keeps.sampleLine (h : Keeps l s t) (p : Part) (n : Nat) (i : Fin 8) :
    Keeps l s (Machine.sampleLine p n t i) := by
  unfold Machine.sampleLine
  dsimp only
  split
  · refine Keeps.setPrev ?_ _ _ _
    split
    · split
      · exact h.fireLine p i n
      · next hbelow =>
        refine h.setTrig fun hl => ?_
        obtain ⟨hlow, hhigh, -, hfired⟩ := hl
        exact ⟨hlow, hhigh, by simpa using hbelow, hfired⟩
    · exact h
  · exact h

theorem Keeps.sampleTriggers (h : Keeps l s t) (p : Part) (n : Nat) : Keeps l s (Machine.sampleTriggers p n t) :=
  Keeps.foldl (fun _ i hu => hu.sampleLine p n i) _ h

theorem Keeps.startTriggers (h : Keeps l s t) (p : Part) : Keeps l s (Machine.startTriggers p t) := by
  refine Keeps.setCtx (h.setTu (fun i hi => ?_) ?_) ⟨?_, ?_⟩
  · rw [look_tab]
    split
    · obtain ⟨hlow, hhigh, -, -⟩ := hi
      exact ⟨hlow, hhigh, hlow, Nat.zero_le _⟩
    · exact hi
  all_goals exact id

end

section
variable {l : Option PortId} {s t : State}

/-! Step engine -/

theorem Context.Kept.emptyQueue {c d : Context} (hq : d.queue = []) (hs : c.second ≤ counterMax → d.second ≤ counterMax) :
    c.Kept d := ⟨fun _ => by simp [hq], hs⟩

theorem Keeps.faultCtx (h : Keeps l s t) (p : Part) (cause : FaultCause) : Keeps l s (Machine.faultCtx p cause t) := by
  unfold Machine.faultCtx
  dsimp only
  split
  · exact h
  · refine Keeps.raiseIfSaturated (h.setCtx ?_) _
    exact ⟨id, satSucc_le _⟩
  all_goals
    refine (((h.setCtx ?_).writeFault _ _).raise _).settlePace p
    exact .emptyQueue rfl id

theorem Keeps.startCtx (h : Keeps l s t) (p : Part) (e : Nat) : Keeps l s (Machine.startCtx p e t) := by
  have hstarted : ∀ {u : State}, Keeps l s u → Keeps l s (reportStartPace p (Machine.settlePace p (Machine.startDomains p
      (Machine.startTriggers p (Machine.clearHolds p (Machine.clearSlots p (u.setCtx p ((u.ctx p).started e)))))))) := by
    intro u hu
    have hcleared : (u.ctx p).Kept ((u.ctx p).started e) := .emptyQueue rfl fun _ => Nat.zero_le _
    have hset := (((((hu.setCtx hcleared).clearSlots p).clearHolds p).startTriggers p).startDomains p).settlePace p
    unfold reportStartPace
    split
    exacts [hset.writePace p true, hset]
  have hraised : Keeps l s (if (t.ctx p).state = .idle then t else Machine.raise .restarted t) := by
    split
    exacts [h, h.raise _]
  unfold Machine.startCtx
  dsimp only
  split
  exacts [(hstarted hraised).faultCtx p _, hstarted hraised]

theorem Keeps.abortCtx (h : Keeps l s t) (p : Part) : Keeps l s (Machine.abortCtx p t) := by
  have hcleared : (t.ctx p).Kept (t.ctx p).aborted := .emptyQueue rfl fun _ => Nat.zero_le _
  exact ((((h.setCtx hcleared).clearSlots p).clearHolds p).abortDomains p).settlePace p

theorem Context.kept_frozenAt (c : Context) (f : Nat) (causes : Causes) (now : Nat) :
    c.Kept (c.frozenAt f causes now) := by
  unfold Context.frozenAt
  dsimp only
  split <;> exact ⟨id, id⟩

theorem Context.kept_advance (c : Context) (n now : Nat) : c.Kept (c.advance n now) := by
  unfold Context.advance
  dsimp only
  split
  · exact ⟨id, id⟩
  · split <;> exact ⟨id, id⟩

theorem Keeps.freezeCtx (h : Keeps l s t) (p : Part) (f : Nat) (causes : Causes) (short : Bool) :
    Keeps l s (Machine.freezeCtx p f causes short t) := by
  have hset := h.setCtx ((t.ctx p).kept_frozenAt f causes t.now)
  unfold Machine.freezeCtx
  split
  case h_1 | h_2 => exact h
  all_goals
    split
    · exact h.faultCtx p _
    · dsimp only
      split
      exacts [hset.raise _, hset]

theorem Keeps.resumeCtx (h : Keeps l s t) (p : Part) (r : Nat) : Keeps l s (Machine.resumeCtx p r t) := by
  unfold Machine.resumeCtx
  split
  case h_1 | h_2 => exact h
  case h_3 | h_4 => exact h.faultCtx p _
  all_goals
    split
    exacts [h.setCtx ⟨id, id⟩, h.faultCtx p _]

theorem Keeps.noteShort (h : Keeps l s t) (age : Nat) : Keeps l s (Machine.noteShort age t) := by
  unfold Machine.noteShort
  split
  exacts [(h.raise _).bumpHub 0, h]

/-- A step joins a hold queue that holds fewer than 128, or empties it (R67, R71). -/
theorem Keeps.acceptStep (h : Keeps l s t) (p : Part) (n age : Nat) : Keeps l s (Machine.acceptStep p n age t) := by
  have hset := h.setCtx (p := p) (c := { t.ctx p with expected := n + 1 }) ⟨id, id⟩
  unfold Machine.acceptStep
  dsimp only
  split
  · split
    · exact (hset.noteShort age).faultCtx p _
    · next hroom =>
      refine ((hset.noteShort age).setCtx ⟨fun _ => ?_, ?_⟩).settlePace p
      · simp only [Context.enqueue, List.length_append, List.length_cons, List.length_nil]
        omega
      · exact id
  · exact hset.setCtx (Context.kept_advance _ _ _)

theorem Keeps.stepCtx (h : Keeps l s t) (p : Part) (n age : Nat) : Keeps l s (Machine.stepCtx p n age t) := by
  unfold Machine.stepCtx
  split
  case h_1 | h_2 => exact h
  case h_3 => exact h.faultCtx p _
  all_goals
    split
    · exact h.faultCtx p _
    · split
      exacts [h.faultCtx p _, h.acceptStep p n age]

theorem Context.kept_dequeue {c : Context} {e : HoldEntry} {rest : List HoldEntry} (hqueue : c.queue = e :: rest)
    (low now : Nat) : c.Kept (c.dequeue e rest low now) := by
  have hshorter : c.Kept { c with queue := rest, queueSlow := c.queueSlow && decide (low < rest.length) } := by
    refine ⟨fun hl => ?_, id⟩
    rw [hqueue, List.length_cons] at hl
    change rest.length ≤ 128
    omega
  exact hshorter.trans (Context.kept_advance _ _ _)

theorem Keeps.executeHead (h : Keeps l s t) (p : Part) : Keeps l s (Machine.executeHead p t) := by
  unfold Machine.executeHead
  split
  · exact h
  · next e rest hqueue =>
    split
    · have hset := h.setCtx (p := p) (Context.kept_dequeue hqueue t.ma.hub.low t.now)
      exact (((hset.settlePace p).executeDomains p e.step).sampleTriggers p e.step).sampleStalls p e.step
    · exact h

theorem Keeps.sampleFrozen (h : Keeps l s t) (p : Part) : Keeps l s (Machine.sampleFrozen p t) := by
  unfold Machine.sampleFrozen
  dsimp only
  split
  · refine Keeps.sampleStalls ?_ p _
    exact h.setCtx ⟨id, id⟩
  · exact h

/-! Forwarder -/

theorem Keeps.dropCell (h : Keeps l s t) (n : Dn) : Keeps l s (Machine.dropCell n t) := (h.bump _ _).raise _

theorem Keeps.shrinkSteps (h : Keeps l s t) (n : Dn) {cs : List StepCopy} (hc : cs.length ≤ (t.egress n).steps.length) :
    Keeps l s (Machine.shrinkSteps n cs t) :=
  Keeps.settlePaces (h.setEgress fun ⟨hu, hs, hm⟩ => ⟨hu, hc.trans hs, hm⟩)

theorem Keeps.removeSteps (h : Keeps l s t) (n : Dn) (p : Part) : Keeps l s (Machine.removeSteps n p t) := by
  unfold Machine.removeSteps
  dsimp only
  split
  exacts [h, h.shrinkSteps n (List.length_filter_le _ _)]

theorem Keeps.placeRun (h : Keeps l s t) (n : Dn) (p : Part) (r : Run) : Keeps l s (Machine.placeRun n p r t) := by
  unfold Machine.placeRun
  dsimp only
  split
  · next hroom =>
    have hset : Keeps l s (t.setEgress n { t.egress n with urgent := (t.egress n).urgent ++ [⟨p, r⟩] }) :=
      h.setEgress fun ⟨_, hs, hm⟩ => ⟨by simpa using hroom, hs, hm⟩
    split
    case h_1 | h_2 => exact hset.removeSteps n p
    all_goals exact hset
  · exact h.dropCell n

theorem Keeps.placeStep (h : Keeps l s t) (n : Dn) (c : StepCopy) : Keeps l s (Machine.placeStep n c t) := by
  unfold Machine.placeStep
  split
  · next hroom => exact Keeps.settlePaces (h.setEgress fun ⟨hu, _, hm⟩ => ⟨hu, by simpa using hroom, hm⟩)
  · exact h.dropCell n

theorem Keeps.placeMgmt (h : Keeps l s t) (n : Dn) (r : Request) : Keeps l s (Machine.placeMgmt n r t) := by
  unfold Machine.placeMgmt
  dsimp only
  split
  · next hroom => exact h.setEgress fun ⟨hu, hs, _⟩ => ⟨hu, hs, by simpa using hroom⟩
  · exact h.bump _ _

theorem Keeps.emptyEgress (h : Keeps l s t) (n : Dn) : Keeps l s (Machine.emptyEgress n t) :=
  Keeps.settlePaces (h.setEgress fun _ => by simp [Egress.Bounded, Egress.reset])

theorem Keeps.copyDown {place : Dn → State → State} (hp : ∀ u n, Keeps l s u → Keeps l s (place n u))
    (h : Keeps l s t) (p : Part) : Keeps l s (Machine.copyDown p place t) :=
  Keeps.foldl (fun u n hu => by
    split
    · split
      exacts [hp u n hu, hu.bump _ _]
    · exact hu) _ h

theorem Keeps.takeRun (h : Keeps l s t) (p : Part) (r : Run) : Keeps l s (Machine.takeRun p r t) := by
  cases r with
  | start e => exact h.startCtx p e
  | freeze f causes short => exact h.freezeCtx p f causes short
  | resume f => exact h.resumeCtx p f
  | abort => exact h.abortCtx p
  | swap w => exact h.takeSwap p w

theorem Keeps.deliverRun (h : Keeps l s t) (p : Part) (r : Run) : Keeps l s (Machine.deliverRun p r t) :=
  Keeps.copyDown (fun _ n hu => hu.placeRun n p r) (h.takeRun p r) p

theorem Keeps.deliverStep (h : Keeps l s t) (p : Part) (n age : Nat) : Keeps l s (Machine.deliverStep p n age t) :=
  Keeps.copyDown (fun _ k hu => hu.placeStep k _) (h.stepCtx p n age) p

theorem Keeps.joinAgent (h : Keeps l s t) (r : Request) : Keeps l s (Machine.joinAgent r t) := by
  unfold Machine.joinAgent
  split
  · next hroom =>
    refine h.setMa (fun _ => ?_) ?_ fun _ => ?_
    · simpa using hroom
    all_goals exact id
  · exact h.bump _ _

theorem Keeps.routeRequest (h : Keeps l s t) (r : Request) : Keeps l s (Machine.routeRequest r t) := by
  unfold Machine.routeRequest
  split
  · exact h.joinAgent r
  · split
    exacts [h.placeMgmt _ r, h.bump _ _]
  · refine Keeps.foldl (fun u n hu => ?_) _ (h.joinAgent r)
    split
    exacts [hu.placeMgmt n r, hu]
  · exact h.bump _ _

theorem Keeps.acceptSummary (h : Keeps l s t) (p : Part) (n : Dn) {act : State → State} (ha : Keeps l s (act t)) :
    Keeps l s (Machine.acceptSummary p n act t) := by
  unfold Machine.acceptSummary
  split
  · exact h.bump _ _
  · split
    exacts [h, ha]

theorem Keeps.takeFault (h : Keeps l s t) (p : Part) (r : FaultReport) : Keeps l s (Machine.takeFault p r t) := by
  unfold Machine.takeFault
  split
  exacts [h.toRoot _, h.writeFault p r]

theorem Keeps.takePace (h : Keeps l s t) (p : Part) (n : Dn) (slow : Bool) : Keeps l s (Machine.takePace p n slow t) := by
  refine Keeps.settlePace ?_ p
  exact h.setCtx ⟨id, id⟩

theorem Keeps.dropChildPace (h : Keeps l s t) (n : Dn) : Keeps l s (Machine.dropChildPace n t) :=
  Keeps.foldl (fun _ p hu => hu.takePace p n false) _ h

/-! Root controller -/

theorem Keeps.pushStateNote (h : Keeps l s t) (p : Part) : Keeps l s (Machine.pushStateNote p t) := h.pushNote _

theorem Keeps.withStateNote (p : Part) {act : State → State} (h : Keeps l s (act t)) :
    Keeps l s (Machine.withStateNote p act t) := by
  unfold Machine.withStateNote
  dsimp only
  split
  exacts [h, h.pushStateNote p]

/-- Two records with the same settings and accumulator. -/
structure RootRec.SameSettings (r q : RootRec) : Prop where
  epoch : q.epoch = r.epoch
  swapStep : q.swapStep = r.swapStep
  lead : q.lead = r.lead
  period : q.period = r.period
  acc : q.acc = r.acc

theorem Keeps.setRecord (h : Keeps l s t) {p : Part} {q : RootRec} (hq : (t.rootRec p).SameSettings q) :
    Keeps l s (t.setRootRec p q) :=
  h.setRootRec fun hr => by
    obtain ⟨he, hw, hl, hp, ha⟩ := hq
    simpa only [RootRec.InRange, he, hw, hl, hp, ha] using hr

theorem RootRec.sameSettings_stopped (r : RootRec) (f : Nat) (causes : Causes) (budget now : Nat) :
    r.SameSettings (r.stopped f causes budget now) := by
  unfold RootRec.stopped
  split <;> exact ⟨rfl, rfl, rfl, rfl, rfl⟩

theorem Keeps.stopRequest (h : Keeps l s t) (p : Part) (f : Nat) (causes : Causes) (short : Bool) :
    Keeps l s (Machine.stopRequest p f causes short t) := by
  have hset : Keeps l s (t.setRootRec p ((t.rootRec p).stopped f causes t.ma.hub.budget t.now)) :=
    h.setRecord (RootRec.sameSettings_stopped _ _ _ _ _)
  unfold Machine.stopRequest
  dsimp only
  split
  · split
    exacts [(hset.deliverRun p _).raise _, hset.deliverRun p _]
  · exact hset

theorem RootRec.InRange.issued {r : RootRec} (h : r.InRange) (now : Nat) : (r.issued now).InRange := by
  obtain ⟨hepoch, hswap, hlead, hlead', hperiod, hperiod', -⟩ := h
  refine ⟨hepoch, hswap, hlead, hlead', hperiod, hperiod', ?_⟩
  simp only [RootRec.issued]
  omega

theorem Keeps.applyLimit (h : Keeps l s t) (p : Part) : Keeps l s (Machine.applyLimit p t) := by
  unfold Machine.applyLimit
  dsimp only
  split
  · exact h.setRecord ⟨rfl, rfl, rfl, rfl, rfl⟩
  · refine Keeps.deliverRun (h.setRecord ?_) p _
    exact ⟨rfl, rfl, rfl, rfl, rfl⟩

theorem Keeps.issueStep (h : Keeps l s t) (p : Part) : Keeps l s (Machine.issueStep p t) := by
  have hset : Keeps l s (t.setRootRec p ((t.rootRec p).issued t.now)) := h.setRootRec fun hr => hr.issued t.now
  have hissued := hset.deliverStep p (t.rootRec p).next 0
  unfold Machine.issueStep
  dsimp only
  split
  exacts [hissued.applyLimit p, hissued]

theorem Keeps.pace (h : Keeps l s t) (p : Part) : Keeps l s (Machine.pace p t) := by
  unfold Machine.pace
  split
  exacts [Keeps.withStateNote p (h.issueStep p), h]

theorem Keeps.applyCount (h : Keeps l s t) (p : Part) (n : Nat) : Keeps l s (Machine.applyCount p n t) := by
  refine Keeps.deliverRun (h.setRecord ?_) p _
  exact ⟨rfl, rfl, rfl, rfl, rfl⟩

theorem Keeps.resume (h : Keeps l s t) (p : Part) : Keeps l s (Machine.resume p t) := by
  have hresumed : Keeps l s (Machine.deliverRun p (.resume ((t.rootRec p).freeze.getD 0))
      (t.setRootRec p { t.rootRec p with freeze := none, state := .running })) := by
    refine Keeps.deliverRun (h.setRecord ?_) p _
    exact ⟨rfl, rfl, rfl, rfl, rfl⟩
  unfold Machine.resume
  dsimp only
  refine Keeps.pushStateNote ?_ p
  split
  · have hcounted := fun n => hresumed.applyCount p n
    split
    exacts [(hcounted _).issueStep p, hcounted _]
  · split
    exacts [hresumed.issueStep p, hresumed]

theorem Keeps.removeCauses (h : Keeps l s t) (p : Part) (causes : Causes) :
    Keeps l s (Machine.removeCauses p causes t) := by
  have hset : Keeps l s (t.setRootRec p { t.rootRec p with causes := causes }) :=
    h.setRecord ⟨rfl, rfl, rfl, rfl, rfl⟩
  unfold Machine.removeCauses
  dsimp only
  split
  exacts [hset.resume p, hset]

theorem Keeps.takeHoldOn (h : Keeps l s t) (p : Part) (m : Nat) : Keeps l s (Machine.takeHoldOn p m t) := by
  unfold Machine.takeHoldOn
  dsimp only
  split
  case h_1 | h_2 => exact h.stopRequest p _ _ _
  case h_3 => exact h.setRecord ⟨rfl, rfl, rfl, rfl, rfl⟩
  all_goals exact h

theorem Keeps.takeHoldOff (h : Keeps l s t) (p : Part) : Keeps l s (Machine.takeHoldOff p t) := by
  unfold Machine.takeHoldOff
  dsimp only
  split
  case h_4 | h_5 => exact h
  all_goals
    split
    exacts [h.removeCauses p _, h]

theorem Keeps.takeHalt (h : Keeps l s t) (p : Part) (c : Fin 4) (r : HaltReq) :
    Keeps l s (Machine.takeHalt p c r t) := by
  have hset : ∀ o, Keeps l s (t.setRootRec p (if (t.rootRec p).lowers ((t.rootRec p).candidate r.stamp) then
      { t.rootRec p with haltOrigin := o } else t.rootRec p)) := fun o =>
    h.setRecord (by split <;> exact ⟨rfl, rfl, rfl, rfl, rfl⟩)
  unfold Machine.takeHalt
  dsimp only
  split
  · split
    case h_1 | h_2 => exact (hset _).stopRequest p _ _ _
    case h_3 => exact h.setRecord ⟨rfl, rfl, rfl, rfl, rfl⟩
    all_goals exact h
  · exact h

theorem Keeps.takeFaultReport (h : Keeps l s t) (p : Part) (f : FaultReport) :
    Keeps l s (Machine.takeFaultReport p f t) := by
  have hset : Keeps l s (t.setRootRec p ((t.rootRec p).faulted f)) := h.setRecord ⟨rfl, rfl, rfl, rfl, rfl⟩
  unfold Machine.takeFaultReport
  dsimp only
  split
  case h_4 | h_5 => exact h
  all_goals
    split
    exacts [hset.deliverRun p _, hset]

theorem Keeps.takeReport (h : Keeps l s t) (r : Report) : Keeps l s (Machine.takeReport r t) := by
  cases r with
  | holdOn p m => exact Keeps.withStateNote p (h.takeHoldOn p m)
  | holdOff p => exact h.takeHoldOff p
  | halt p c r => exact Keeps.withStateNote p (h.takeHalt p c r)
  | fault p f => exact Keeps.withStateNote p (h.takeFaultReport p f)

theorem Keeps.settleReports : ∀ (k : Nat) {t : State}, Keeps l s t → Keeps l s (Machine.settleReports k t)
  | 0, _, h => h.setOwn _
  | k + 1, t, h => by
    unfold Machine.settleReports
    split
    · exact h
    · exact Keeps.settleReports k (Keeps.foldl (fun _ r hu => hu.takeReport r) _ ((h.setOwn _).useChoices _))

theorem Keeps.settle (h : Keeps l s t) : Keeps l s (Machine.settle t) := (h.settleReports 3).settleNotes 3

/-- The record that START leaves: a new run with the settings as they are (R151). -/
theorem RootRec.InRange.cleared {r : RootRec} (h : r.InRange) :
    RootRec.InRange
      { r with
        slow := false
        acc := 0
        lastIssued := none
        lastIssueTime := none
        freeze := none
        pendingCount := none
        pendingSwap := none
        fault := none
        haltOrigin := none
        causes := Causes.none } := by
  obtain ⟨he, hw, hl, hl', hp, hp', -⟩ := h
  exact ⟨he, hw, hl, hl', hp, hp', Nat.zero_le _⟩

theorem Keeps.rootStart (h : Keeps l s t) (p : Part) : Keeps l s (Machine.rootStart p t).1 := by
  unfold Machine.rootStart
  dsimp only
  split
  · exact h
  · split
    · exact h
    · refine Keeps.pushStateNote ?_ p
      have hcleared : ∀ {q : RootRec} (run : Run), ((t.rootRec p).InRange → q.InRange) →
          Keeps l s (Machine.deliverRun p run (t.setRootRec p q)) := fun run hq => (h.setRootRec hq).deliverRun p run
      have hrun : ∀ {u : State} {a : Option Nat}, Keeps l s u →
          Keeps l s (u.setRootRec p { u.rootRec p with state := .running, nextIssue := a }) :=
        fun hu => hu.setRecord ⟨rfl, rfl, rfl, rfl, rfl⟩
      have hstarted := hrun (a := some (t.now + 1)) (hcleared (.start (t.rootRec p).epoch) RootRec.InRange.cleared)
      split
      exacts [hstarted, hstarted.applyCount p _]

theorem Keeps.rootPause (h : Keeps l s t) (p : Part) : Keeps l s (Machine.rootPause p t).1 := by
  unfold Machine.rootPause
  dsimp only
  split
  case h_1 | h_2 => exact Keeps.withStateNote p (h.stopRequest p _ _ _)
  case h_3 => exact h.setRecord ⟨rfl, rfl, rfl, rfl, rfl⟩
  all_goals exact h

theorem Keeps.rootContinue (h : Keeps l s t) (p : Part) : Keeps l s (Machine.rootContinue p t).1 := by
  unfold Machine.rootContinue
  dsimp only
  split
  case h_4 | h_5 =>
    split
    · exact h
    · refine Keeps.removeCauses (h.setRecord ?_) p _
      exact ⟨rfl, rfl, rfl, rfl, rfl⟩
  all_goals exact h

theorem Keeps.rootAbort (h : Keeps l s t) (p : Part) : Keeps l s (Machine.rootAbort p t).1 := by
  unfold Machine.rootAbort
  dsimp only
  refine Keeps.withStateNote p ?_
  refine Keeps.setRecord (Keeps.deliverRun (h.setRootRec fun hr => ?_) p _) ?_
  · obtain ⟨he, hw, hl, hl', hp, hp', -⟩ := hr
    exact ⟨he, hw, hl, hl', hp, hp', Nat.zero_le _⟩
  · exact ⟨rfl, rfl, rfl, rfl, rfl⟩

theorem Keeps.rootSwap (h : Keeps l s t) (p : Part) : Keeps l s (Machine.rootSwap p t).1 := by
  unfold Machine.rootSwap
  dsimp only
  split
  case h_1 | h_2 => exact h
  all_goals
    split
    · exact h
    · split
      · exact h
      · split
        · exact h
        · refine Keeps.deliverRun (h.setRecord ?_) p _
          exact ⟨rfl, rfl, rfl, rfl, rfl⟩

theorem Keeps.rootFreeze (h : Keeps l s t) (p : Part) : Keeps l s (Machine.rootFreeze p t) := by
  unfold Machine.rootFreeze
  dsimp only
  split
  · refine Keeps.pushStateNote (h.setRecord ?_) p
    exact ⟨rfl, rfl, rfl, rfl, rfl⟩
  · exact h

end

section
variable {l : Option PortId} {s t : State}

/-! Links -/

/-- A port's record changes in fields that Table 2-1 does not bound. -/
theorem Keeps.setPort_same (h : Keeps l s t) {x : PortId} {q : Port} (ha : q.attempts = (t.port x).attempts)
    (hb : q.badRun = (t.port x).badRun) (hl : q.linkLat = (t.port x).linkLat) (hp : q.pathLat = (t.port x).pathLat)
    (hs : q.state = (t.port x).state) (hc : q.counters = (t.port x).counters) : Keeps l s (t.setPort x q) :=
  h.setPort fun hw => by simpa only [Port.Within, ha, hb, hl, hp, hs, hc] using hw

theorem Keeps.silenceLinks (h : Keeps l s t) : Keeps l s (Machine.silenceLinks t) :=
  { h with
    port := fun x hx => by
      cases x with
      | d n => simpa [Machine.silenceLinks, State.port, Port.silenced, Port.Within] using h.port (.d n) hx
      | u => exact h.port .u hx }

theorem Keeps.silence (h : Keeps l s t) : Keeps l s (Machine.silence t) :=
  h.silenceLinks.setPort_same rfl rfl rfl rfl rfl rfl

theorem Keeps.endWork (h : Keeps l s t) (x : PortId) : Keeps l s (Machine.endWork x t) := by
  cases x with
  | d n => exact h.setDLink n _
  | u => exact h.setLp rfl rfl id

/-- A port goes to a state that is not aligned, where its bad-cell run may be 4 (R23). -/
theorem Keeps.unalign {x : PortId} (h : Keeps (some x) s t) {q : Port} (ha : q.attempts = (t.port x).attempts)
    (hb : q.badRun = (t.port x).badRun) (hl : q.linkLat = (t.port x).linkLat) (hp : q.pathLat = (t.port x).pathLat)
    (hs : q.state = .down ∨ q.state = .training ∨ q.state = .failed) (hc : q.counters = (t.port x).counters) :
    Keeps none s (t.setPort x q) := by
  refine h.setPort_from (fun hw => ?_) fun y hxy hy => absurd (Option.some.inj hy) hxy
  obtain ⟨hattempts, hrun, hlink, hpath, -, hcount⟩ := hw
  rw [Port.Within, ha, hb, hl, hp, hc]
  exact ⟨hattempts, hrun, hlink, hpath, .inr (by rcases hs with hs | hs | hs <;> simp [hs]), hcount⟩

theorem Keeps.enterTraining {x : PortId} (h : Keeps (some x) s t) : Keeps none s (Machine.enterTraining x t) :=
  (h.endWork x).unalign rfl rfl rfl rfl (.inr (.inl rfl)) rfl

theorem Keeps.enterDown {x : PortId} (h : Keeps (some x) s t) : Keeps none s (Machine.enterDown x t) :=
  (h.endWork x).unalign rfl rfl rfl rfl (.inl rfl) rfl

theorem Keeps.enterFailed {x : PortId} (h : Keeps (some x) s t) : Keeps none s (Machine.enterFailed x t) := by
  refine Keeps.raise ((h.endWork x).unalign ?_ ?_ ?_ ?_ ?_ ?_) _
  case refine_5 => exact .inr (.inr rfl)
  all_goals rfl

theorem Keeps.reportChildLoss (h : Keeps l s t) (n : Dn) : Keeps l s (Machine.reportChildLoss n t) :=
  Keeps.foldl (fun u p hu => by
    split
    exacts [hu.writeFault p _, hu]) _ h

theorem Keeps.lostChild (h : Keeps l s t) (n : Dn) : Keeps l s (Machine.lostChild n t) :=
  (((h.emptyEgress n).reportChildLoss n).dropChildHolds n).dropChildPace n

theorem Keeps.lostController (h : Keeps l s t) : Keeps l s (Machine.lostController t) :=
  h.setCf rfl (fun _ => Nat.zero_le _) fun _ => Nat.zero_le _

theorem Keeps.noteLinkDown (h : Keeps l s t) (x : PortId) : Keeps l s (Machine.noteLinkDown x t) :=
  (h.raise _).bump x _

theorem Keeps.unlock (h : Keeps l s t) : Keeps l s (Machine.unlock t) := by
  have htimer : t.unlockedRef.timer = 0 := by
    unfold State.unlockedRef
    dsimp only
    repeat' split
    all_goals rfl
  have hset : Keeps l s (t.setRef t.unlockedRef) := h.setRef fun _ => htimer ▸ Nat.zero_le _
  unfold Machine.unlock
  dsimp only
  split
  exacts [hset.silence.raise _, hset]

theorem Keeps.faultAll (h : Keeps l s t) (cause : FaultCause) : Keeps l s (Machine.faultAll cause t) :=
  Keeps.foldl (fun _ p hu => hu.faultCtx p cause) _ h

end

section
variable {s t : State}

theorem Keeps.retireUp (h : Keeps none s t) (x : PortId) : Keeps none s (Machine.retireUp x t) := by
  have hdown := (h.weaken.enterDown (x := x)).noteLinkDown x
  unfold Machine.retireUp
  dsimp only
  cases x with
  | d n => exact hdown.lostChild n
  | u =>
    dsimp only
    split
    exacts [hdown.lostController, hdown]

theorem Keeps.followCondition (h : Keeps none s t) (x : PortId) : Keeps none s (Machine.followCondition x t) := by
  unfold Machine.followCondition
  split
  · split
    exacts [h.weaken.enterTraining, h]
  case h_5 =>
    split
    exacts [h, h.retireUp x]
  case h_6 => exact h
  all_goals
    split
    exacts [h, h.weaken.enterDown]

theorem Keeps.followConditions (h : Keeps none s t) : Keeps none s (Machine.followConditions t) :=
  Keeps.foldl (fun _ n hu => hu.followCondition (.d n)) _ (h.followCondition .u)

theorem Keeps.lostUplink (h : Keeps none s t) : Keeps none s (Machine.lostUplink t) :=
  (h.unlock.faultAll _).followConditions

theorem Keeps.lostReference (h : Keeps none s t) : Keeps none s (Machine.lostReference t) :=
  ((h.unlock.faultAll _).settleReports 3).followConditions

theorem Keeps.leaveUp {x : PortId} {enter : PortId → State → State} (h : Keeps none s (enter x t)) :
    Keeps none s (Machine.leaveUp x enter t) := by
  have hleft := h.noteLinkDown x
  unfold Machine.leaveUp
  dsimp only
  cases x with
  | d n => exact hleft.lostChild n
  | u =>
    dsimp only
    split
    exacts [hleft.lostController, hleft.lostUplink]

theorem Keeps.failAttempt {x : PortId} (h : Keeps (some x) s t) : Keeps none s (Machine.failAttempt x t) := by
  have hcounted : Keeps (some x) s (Machine.bump x kAttemptFail (countAttempt x t)) := by
    refine Keeps.bump (h.setPort fun hw => ?_) x _
    obtain ⟨-, hrun, hlink, hpath, hloose, hcount⟩ := hw
    exact ⟨Nat.min_le_left _ _, hrun, hlink, hpath, hloose, hcount⟩
  rw [failAttempt_eq]
  split
  exacts [hcounted.enterFailed, hcounted.enterTraining]

/-- A port is given a state with its bad-cell run 0 (R21, R23). -/
theorem Port.Within.reset {loose : Prop} {p q : Port} (h : p.Within loose) (ha : q.attempts ≤ p.attempts)
    (hb : q.badRun = 0) (hl : q.linkLat = p.linkLat) (hp : q.pathLat = p.pathLat) (hc : q.counters = p.counters) :
    q.Within loose := by
  obtain ⟨hattempts, -, hlink, hpath, -, hcount⟩ := h
  rw [Port.Within, hb, hl, hp, hc]
  exact ⟨ha.trans hattempts, Nat.zero_le _, hlink, hpath, .inr fun _ => Nat.zero_le _, hcount⟩

theorem Keeps.enterUp (h : Keeps none s t) (x : PortId) : Keeps none s (Machine.enterUp x t) := by
  refine Keeps.raise (h.setPort fun hw => hw.reset (Nat.zero_le _) ?_ ?_ ?_ ?_) _ <;> rfl

theorem Keeps.align (h : Keeps none s t) (x : PortId) : Keeps none s (Machine.align x t) := by
  unfold Machine.align
  cases x with
  | d n =>
    refine Keeps.setDLink (h.setPort fun hw => hw.reset (le_of_eq ?_) ?_ ?_ ?_ ?_) n _ <;> rfl
  | u =>
    dsimp only
    split
    · exact h.enterUp .u
    · refine h.setPort fun hw => hw.reset (le_of_eq ?_) ?_ ?_ ?_ ?_ <;> rfl

theorem Keeps.placeEnum (h : Keeps none s t) (n : Dn) : Keeps none s (Machine.placeEnum n t) := h.setDLink n _

theorem Keeps.enterUpD (h : Keeps none s t) (n : Dn) : Keeps none s (Machine.enterUpD n t) :=
  ((h.enterUp (.d n)).setDLink n _).placeEnum n

/-- A latency is written once it is found in range (R30, R31). -/
theorem Keeps.concludeMeasure (h : Keeps none s t) (n : Dn) (rtts : List Nat) :
    Keeps none s (Machine.concludeMeasure n rtts t) := by
  unfold Machine.concludeMeasure
  dsimp only
  split
  · exact h.weaken.failAttempt
  · next hlink =>
    have hset : Keeps none s (t.setPort (.d n) { t.port (.d n) with linkLat := linkLatency rtts }) := by
      refine h.setPort fun hw => ?_
      obtain ⟨hattempts, hrun, -, hpath, hloose, hcount⟩ := hw
      exact ⟨hattempts, hrun, Nat.not_lt.mp hlink, hpath, hloose, hcount⟩
    split
    · exact hset.weaken.failAttempt
    · next hpath =>
      refine Keeps.enterUpD (hset.setPort fun hw => ?_) n
      obtain ⟨hattempts, hrun, hlink, -, hloose, hcount⟩ := hw
      exact ⟨hattempts, hrun, hlink, Nat.not_lt.mp hpath, hloose, hcount⟩

theorem Keeps.takeEchoBack (h : Keeps none s t) (n : Dn) (round : Fin 8) :
    Keeps none s (Machine.takeEchoBack n round t) := by
  unfold Machine.takeEchoBack
  dsimp only
  split
  · exact h
  · split
    · split
      exacts [h.concludeMeasure n _, h.setDLink n _]
    · exact h

theorem Keeps.takePosition (h : Keeps none s t) (addr : Addr) (depth : Nat) {lat : Nat} (hl : lat ≤ 16383) :
    Keeps none s (Machine.takePosition addr depth lat t) := by
  unfold Machine.takePosition
  dsimp only
  refine Keeps.setPort (h.setLp ?_ ?_ fun _ => ?_) fun hw => ?_
  · rfl
  · rfl
  · exact hl
  · obtain ⟨hattempts, hrun, hlink, -, hloose, hcount⟩ := hw
    exact ⟨hattempts, hrun, hlink, hl, hloose, hcount⟩

theorem Keeps.reenumerate (h : Keeps none s t) (n : Dn) : Keeps none s (Machine.reenumerate t n) := by
  unfold Machine.reenumerate
  dsimp only
  split
  · split
    · exact h.weaken.failAttempt.leaveUp
    · next hpath =>
      refine Keeps.placeEnum (h.setPort fun hw => ?_) n
      obtain ⟨hattempts, hrun, hlink, -, hloose, hcount⟩ := hw
      exact ⟨hattempts, hrun, hlink, Nat.not_lt.mp hpath, hloose, hcount⟩
  · exact h

theorem Keeps.noteDepth (h : Keeps none s t) (a b : Option Nat) : Keeps none s (Machine.noteDepth a b t) := by
  unfold Machine.noteDepth
  split
  exacts [h.raise _, h]

theorem Keeps.reposition (h : Keeps none s t) : Keeps none s (Machine.reposition t) := by
  unfold Machine.reposition
  split
  exacts [h.silenceLinks, Keeps.foldl (fun _ n hu => hu.reenumerate n) _ h]

theorem Keeps.takeEnum (h : Keeps none s t) (addr : Addr) (depth lat : Nat) :
    Keeps none s (Machine.takeEnum addr depth lat t) := by
  unfold Machine.takeEnum
  split
  · exact h
  · next hvalid =>
    have hl : lat ≤ 16383 := by
      simp only [enumValid, Bool.not_eq_true, Bool.not_eq_false', Bool.and_eq_true, decide_eq_true_eq] at hvalid
      exact hvalid.2
    have hpos := h.takePosition addr depth hl
    split
    · split
      exacts [h, (hpos.reposition.noteDepth _ _).followConditions]
    · exact ((hpos.enterUp .u).noteDepth _ _).followConditions

theorem Keeps.takeEcho (h : Keeps none s t) (round : Fin 8) : Keeps none s (Machine.takeEcho round t) :=
  h.setLp rfl rfl id

/-! Received cells -/

theorem Keeps.noteArrival (h : Keeps none s t) (x : PortId) : Keeps none s (Machine.noteArrival x t) := by
  cases x with
  | d n => exact h
  | u => exact h.setLp rfl rfl id

theorem Keeps.trainCell (h : Keeps none s t) (x : PortId) (counts : Bool) :
    Keeps none s (Machine.trainCell x counts t) := by
  have hset : ∀ v, Keeps none s (t.setPort x { t.port x with trainRun := v }) := fun v =>
    h.setPort_same rfl rfl rfl rfl rfl rfl
  unfold Machine.trainCell
  dsimp only
  split
  · split
    exacts [(hset _).align x, hset _]
  · exact hset 0

theorem Keeps.roleConflict (h : Keeps none s t) (x : PortId) : Keeps none s (Machine.roleConflict x t) := by
  have hfailed := (h.raise .roleConflict).weaken.enterFailed (x := x)
  unfold Machine.roleConflict
  dsimp only
  split
  exacts [hfailed.leaveUp, hfailed]

theorem Keeps.clearBadRun (h : Keeps none s t) (x : PortId) : Keeps none s (Machine.clearBadRun x t) := by
  refine h.setPort fun hw => hw.reset (le_of_eq ?_) ?_ ?_ ?_ ?_ <;> rfl

theorem Keeps.receive {act : State → State} (ha : ∀ u, Keeps none s u → Keeps none s (act u)) (h : Keeps none s t)
    (x : PortId) (k : Kind) : Keeps none s (Machine.receive x k act t) := by
  have hheard := h.noteArrival x
  have hjudged : Keeps none s (judgeCell x k act (Machine.noteArrival x t)) := by
    have hclear := hheard.clearBadRun x
    unfold judgeCell
    split
    · exact hheard.roleConflict x
    · split
      · exact ha _ hclear
      · split
        exacts [hclear.bump x _, hclear]
  unfold Machine.receive
  split
  case h_1 | h_2 => exact h
  case h_3 => exact hheard.trainCell x _
  all_goals exact hjudged

/-- A bad cell in an aligned state: the run may reach 4, and then the port leaves that state (R23). -/
theorem Keeps.badAligned (h : Keeps none s t) {x : PortId} (ha : t.aligned x = true) :
    Keeps none s (Machine.badAligned x t) := by
  have hrun3 : (t.port x).Within False → (t.port x).badRun ≤ 3 := fun hw =>
    (hw.2.2.2.2.1.resolve_left id) (aligned_iff.mp ha)
  unfold Machine.badAligned
  dsimp only
  split
  · have hcounted : Keeps (some x) s (Machine.bump x kBadCheck
        (t.setPort x { t.port x with badRun := (t.port x).badRun + 1 })) := by
      refine Keeps.bump (h.setPort_from (fun hw => ?_) (by simp)) x _
      have hrun := hrun3 (hw.weaken (by simp))
      obtain ⟨hattempts, -, hlink, hpath, -, hcount⟩ := hw
      exact ⟨hattempts, Nat.succ_le_succ hrun, hlink, hpath, .inl rfl, hcount⟩
    split
    exacts [hcounted.enterTraining.leaveUp, hcounted.failAttempt]
  · next hlow =>
    refine Keeps.bump (h.setPort fun hw => ?_) x _
    obtain ⟨hattempts, -, hlink, hpath, -, hcount⟩ := hw
    have hlow : (t.port x).badRun + 1 ≤ 3 := by omega
    exact ⟨hattempts, hlow.trans (by decide), hlink, hpath, .inr fun _ => hlow, hcount⟩

theorem aligned_noteArrival (x : PortId) (u : State) : (Machine.noteArrival x u).aligned x = u.aligned x := by
  simp [State.aligned]

theorem Keeps.receiveBad (h : Keeps none s t) (x : PortId) : Keeps none s (Machine.receiveBad x t) := by
  have hheard := h.noteArrival x
  cases hst : (t.port x).state with
  | down => rw [receiveBad_ignored (.inl hst)]; exact h
  | failed => rw [receiveBad_ignored (.inr hst)]; exact h
  | training => rw [receiveBad_training hst]; exact hheard.trainCell x _
  | measuring | waitEnum | up =>
    have ha : t.aligned x = true := aligned_iff.mpr (by simp [hst])
    rw [receiveBad_aligned ha]
    exact hheard.badAligned ((aligned_noteArrival x t).trans ha)

theorem Keeps.receiveUnknown (h : Keeps none s t) (x : PortId) : Keeps none s (Machine.receiveUnknown x t) := by
  have hheard := h.noteArrival x
  unfold Machine.receiveUnknown
  split
  case h_1 | h_2 => exact h
  case h_3 => exact hheard.trainCell x _
  all_goals exact (hheard.clearBadRun x).bump x _

/-! Signals -/

theorem Keeps.setSignal (h : Keeps none s t) (src : SignalSource) (v : Bool) :
    Keeps none s (Machine.setSignal src v t) := by
  cases src with
  | pair x => exact h.setPort_same rfl rfl rfl rfl rfl rfl
  | refin => exact h.setRef id

theorem Keeps.signalPresent (h : Keeps none s t) (src : SignalSource) :
    Keeps none s (Machine.signalPresent src t) := by
  have hset := h.setSignal src true
  unfold Machine.signalPresent
  dsimp only
  refine Keeps.followConditions ?_
  split
  · exact hset.setRef fun _ => Nat.zero_le _
  · exact hset

theorem Keeps.lostSignalPort (h : Keeps none s t) (x : PortId) : Keeps none s (Machine.lostSignalPort x t) := by
  have hdown := h.weaken.enterDown (x := x)
  unfold Machine.lostSignalPort
  split
  case h_1 | h_2 => exact h
  case h_6 => exact h.retireUp x
  all_goals exact hdown

theorem Keeps.signalLost (h : Keeps none s t) (src : SignalSource) : Keeps none s (Machine.signalLost src t) := by
  have hlost : Keeps none s (match src with
      | .pair x => Machine.lostSignalPort x (Machine.setSignal src false t)
      | .refin => Machine.setSignal src false t) := by
    cases src with
    | pair x => exact (h.setSignal (.pair x) false).lostSignalPort x
    | refin => exact h.setSignal .refin false
  unfold Machine.signalLost
  dsimp only
  split
  · split
    · exact hlost
    · refine hlost.setRef fun _ => ?_
      exact Nat.zero_le _
    · split
      exacts [hlost.lostReference, hlost.lostUplink]
  · exact hlost

/-! Scheduling -/

theorem Keeps.sendCell (h : Keeps none s t) (x : PortId) (c : Cell) : Keeps none s (Machine.sendCell x c t) :=
  h.setPort_same rfl rfl rfl rfl rfl rfl

theorem Keeps.upSlotD (h : Keeps none s t) (n : Dn) : Keeps none s (Machine.upSlotD n t) := by
  unfold Machine.upSlotD
  dsimp only
  split
  · exact (h.sendCell _ _).setDLink n _
  · split
    · next u us _ hurgent =>
      refine Keeps.sendCell (h.setEgress fun ⟨hu, hs, hm⟩ => ⟨?_, hs, hm⟩) _ _
      rw [hurgent, List.length_cons] at hu
      exact (Nat.le_succ _).trans hu
    · next c cs _ _ hsteps =>
      exact (h.shrinkSteps n (by simp [hsteps])).sendCell _ _
    · next r rs _ _ hmgmt =>
      refine Keeps.sendCell (h.setEgress fun ⟨hu, hs, hm⟩ => ⟨hu, hs, ?_⟩) _ _
      rw [hmgmt, List.length_cons] at hm
      exact (Nat.le_succ _).trans hm
    · exact h.sendCell _ _

theorem Keeps.measureSlot (h : Keeps none s t) (n : Dn) : Keeps none s (Machine.measureSlot n t) := by
  unfold Machine.measureSlot
  dsimp only
  split
  exacts [h.sendCell _ _, (h.sendCell _ _).setDLink n _]

theorem Keeps.slotD (h : Keeps none s t) (n : Dn) : Keeps none s (Machine.slotD n t) := by
  unfold Machine.slotD
  split
  · split
    exacts [h.upSlotD n, h.measureSlot n, h.sendCell _ _, h.sendCell _ _, h.sendCell _ _, h]
  · exact h

theorem Keeps.sendSlot (h : Keeps none s t) (p : Part) : Keeps none s (Machine.sendSlot p t) := by
  unfold Machine.sendSlot
  dsimp only
  split
  case h_6 => exact h
  all_goals exact (h.setSlots p _).sendCell _ _

theorem Keeps.sendQueued (h : Keeps none s t) : Keeps none s (Machine.sendQueued t) := by
  unfold Machine.sendQueued
  split
  · next _ ns _ hnotes =>
    refine Keeps.sendCell (h.setCf ?_ (fun hl => ?_) ?_) _ _
    · rfl
    · rw [hnotes, List.length_cons] at hl
      exact (Nat.le_succ _).trans hl
    · exact id
  · next r rs _ hresps =>
    refine Keeps.sendCell (h.setCf ?_ ?_ fun hl => ?_) _ _
    · rfl
    · exact id
    · rw [hresps, List.length_cons] at hl
      exact (Nat.le_succ _).trans hl
  · exact h.sendCell _ _

theorem Keeps.upSlotU (h : Keeps none s t) : Keeps none s (Machine.upSlotU t) := by
  unfold Machine.upSlotU
  split
  · refine Keeps.sendSlot (h.setCf ?_ ?_ ?_) _
    · rfl
    all_goals exact id
  · exact h.sendQueued

theorem Keeps.echoOr (h : Keeps none s t) {other : State → State} (ho : Keeps none s (other t)) :
    Keeps none s (Machine.echoOr other t) := by
  unfold Machine.echoOr
  split
  · refine Keeps.sendCell (h.setLp ?_ ?_ ?_) _ _
    · rfl
    · rfl
    · exact id
  · exact ho

theorem Keeps.slotU (h : Keeps none s t) : Keeps none s (Machine.slotU t) := by
  unfold Machine.slotU
  split
  · split
    · split
      exacts [h.sendQueued, h.echoOr h.upSlotU]
    · exact h.echoOr (h.sendCell _ _)
    · exact h.sendCell _ _
    · exact h.sendCell _ _
    · exact h.sendCell _ _
    · exact h
  · exact h

end

section
variable {s t : State}

/-! Management agent -/

theorem clampTo_bounds {a b : Nat} (h : a ≤ b) (v : Nat) : a ≤ clampTo a b v ∧ clampTo a b v ≤ b := by
  unfold clampTo; omega

theorem Keeps.writeRoute (h : Keeps none s t) (p : Part) (f v : Nat) :
    Keeps none s (Machine.writeRoute p f v t).state := by
  unfold Machine.writeRoute
  split
  · exact h
  · split
    · split
      exacts [(h.setRoute p _).settlePace p, h]
    · split
      exacts [h.setRoute p _, h]

theorem Keeps.writeDomainSlot (h : Keeps none s t) (i : Fin 16) (v : Nat) :
    Keeps none s (Machine.writeDomainSlot i v t).state := by
  unfold Machine.writeDomainSlot
  split
  · exact h
  · split
    exacts [h.setDg (fun _ => id) fun _ => id, h]

theorem Keeps.setEntryField (h : Keeps none s t) {i : Fin 32} {e : DomainEntry}
    (he : (look t.dg.entries i).InRange → e.InRange) : Keeps none s (Machine.setEntryField i e t) :=
  h.setDg (fun j hj => by
    rw [look_upd]
    split
    · next hij => exact he (hij ▸ hj)
    · exact hj) fun _ => id

theorem Keeps.writeDomainEntry (h : Keeps none s t) (i : Fin 32) (f v : Nat) :
    Keeps none s (Machine.writeDomainEntry i f v t).state := by
  unfold Machine.writeDomainEntry
  dsimp only
  split
  · exact h
  · split
    · split
      case h_4 => exact h
      all_goals exact h.setEntryField id
    · split
      · next hv => exact h.setEntryField fun ⟨_, _, hphase, hduty⟩ => ⟨hv.1, hv.2, hphase, hduty⟩
      · exact h
    · exact h.setEntryField fun ⟨hlow, hhigh, _, hduty⟩ => ⟨hlow, hhigh, Nat.min_le_left _ _, hduty⟩
    · exact h.setEntryField fun ⟨hlow, hhigh, hphase, _⟩ => ⟨hlow, hhigh, hphase, clampTo_bounds (by decide) v⟩
    · split
      exacts [h.setEntryField id, h]

theorem Keeps.writeOutput (h : Keeps none s t) (i : Fin 16) (f v : Nat) :
    Keeps none s (Machine.writeOutput i f v t).state := by
  unfold Machine.writeOutput
  dsimp only
  split
  · exact h
  · split
    · exact h
    · split
      exacts [h, h.setOut i _]

/-- A new target keeps the count below it (R112). -/
theorem TrigLine.InRange.withTarget {a : TrigLine} (h : a.InRange) (v : Nat) :
    (a.withTarget (clampTo 1 65535 v)).InRange := by
  obtain ⟨-, -, -, hfired⟩ := h
  have hv := clampTo_bounds (show 1 ≤ 65535 by decide) v
  refine ⟨hv.1, hv.2, ?_, hfired⟩
  simp only [TrigLine.withTarget]
  split <;> omega

theorem Keeps.writeTrigger (h : Keeps none s t) (i : Fin 8) (f v : Nat) :
    Keeps none s (Machine.writeTrigger i f v t).state := by
  have hset : ∀ {a : TrigLine}, (t.trig i).target = a.target → (t.trig i).count = a.count →
      (t.trig i).fired = a.fired → Keeps none s (t.setTrig i a) := fun ht hc hf =>
    h.setTrig fun hl => by simpa only [TrigLine.InRange, ht, hc, hf] using hl
  unfold Machine.writeTrigger
  dsimp only
  split
  · split
    · have henabled : Keeps none s (t.setTrig i { t.trig i with enable := v == 1 }) := hset rfl rfl rfl
      simp only [taken]
      split
      exacts [henabled.setPrev _ i none, henabled]
    · exact h
  · split
    · exact h
    · split
      exacts [hset rfl rfl rfl, h]
  · split
    case h_5 => exact h
    all_goals exact hset rfl rfl rfl
  · exact h.setTrig fun hl => hl.withTarget v
  all_goals
    split
    exacts [hset rfl rfl rfl, h]

theorem Keeps.writeStall (h : Keeps none s t) (i : Fin 4) (f v : Nat) :
    Keeps none s (Machine.writeStall i f v t).state := by
  unfold Machine.writeStall
  dsimp only
  split
  · split
    · simp only [taken]
      split
      exacts [(h.setStall i _).setEntry _ _ none, h.setStall i _]
    · exact h
  · split
    · exact h
    · split
      exacts [h.setStall i _, h]
  · split
    exacts [h.setStall i _, h]

theorem Keeps.setHub (h : Keeps none s t) {v : HubSettings} (hv : t.ma.hub.InRange → v.InRange) :
    Keeps none s (Machine.setHub v t) := by
  refine h.setMa ?_ hv fun _ => ?_ <;> exact id

/-- A new high water mark keeps the low one below it (R164). -/
theorem HubSettings.InRange.withHigh {a : HubSettings} (h : a.InRange) (v : Nat) : (a.withHigh v).InRange := by
  obtain ⟨hlow, hhigh, -, -, hl, -⟩ := h
  have hv := clampTo_bounds (show 2 ≤ 127 by decide) v
  refine ⟨hlow, hhigh, hv.1, hv.2, ?_⟩
  simp only [HubSettings.withHigh]
  split <;> omega

theorem Keeps.writeHub (h : Keeps none s t) (f v : Nat) : Keeps none s (Machine.writeHub f v t).state := by
  unfold Machine.writeHub
  dsimp only
  split
  · split
    · exact h
    · refine h.setHub fun ⟨_, _, hmarks⟩ => ⟨?_, ?_, hmarks⟩
      exacts [(clampTo_bounds (by decide) v).1, (clampTo_bounds (by decide) v).2]
  · split
    exacts [h.setHub id, h]
  · exact h.setHub fun hh => hh.withHigh v
  · refine h.setHub fun ⟨hlow, hhigh, hhl, hhh, _, _⟩ => ⟨hlow, hhigh, hhl, hhh, ?_⟩
    have hv := clampTo_bounds (show 1 ≤ t.ma.hub.high - 1 by omega) v
    exact ⟨hv.1, Nat.lt_of_le_sub_one (show 0 < t.ma.hub.high by omega) hv.2⟩

theorem Keeps.writeCounter (h : Keeps none s t) (i : Nat) : Keeps none s (Machine.writeCounter i t).state := by
  unfold Machine.writeCounter
  dsimp only
  split
  · refine h.setPort fun ⟨hattempts, hrun, hlink, hpath, hloose, hcount⟩ =>
      ⟨hattempts, hrun, hlink, hpath, hloose, fun k => ?_⟩
    rw [look_upd]
    split
    exacts [Nat.zero_le _, hcount k]
  · refine h.setMa ?_ ?_ fun k hk => ?_
    · exact id
    · exact id
    · rw [look_upd]
      split
      exacts [Nat.zero_le _, hk]

theorem Keeps.writeEvents (h : Keeps none s t) (f v : Nat) : Keeps none s (Machine.writeEvents f v t).state := by
  have hset : ∀ {a : Agent}, a.queue = t.ma.queue → a.hub = t.ma.hub → a.counters = t.ma.counters →
      Keeps none s (t.setMa a) := fun hq hh hc =>
    h.setMa (by simp [hq]) (by simp [hh]) fun k => by simp [hc, State.hubCounter]
  unfold Machine.writeEvents
  dsimp only
  split
  · exact h
  · split <;> exact hset rfl rfl rfl

theorem Keeps.popCapture (h : Keeps none s t) : Keeps none s (Machine.popCapture t).state := by
  unfold Machine.popCapture
  split
  · exact h
  · next cs hcaptures =>
    refine h.setTu (fun _ => ?_) fun hl => ?_
    · exact id
    · rw [hcaptures, List.length_cons] at hl
      exact (Nat.le_succ _).trans hl

theorem withHi_le {n v : Nat} (hv : v ≤ 255) : withHi n v ≤ freezeMax := by
  unfold withHi lo freezeMax; omega

theorem withLo_le {n v : Nat} (hn : n ≤ freezeMax) (hv : v < 4294967296) : withLo n v ≤ freezeMax := by
  unfold withLo hi; unfold freezeMax at *; omega

theorem Keeps.writeRoot (h : Keeps none s t) (p : Part) (f : Nat) {v : Nat} (hv : v < 4294967296) :
    Keeps none s (Machine.writeRoot p f v t).state := by
  unfold Machine.writeRoot
  dsimp only
  split
  · split
    · exact h
    · split
      · next hhi => exact h.setRootRec fun hr => ⟨withHi_le hhi, hr.2⟩
      · exact h
  · split
    · exact h
    · exact h.setRootRec fun hr => ⟨withLo_le hr.1 hv, hr.2⟩
  · exact h.setRecord ⟨rfl, rfl, rfl, rfl, rfl⟩
  · split
    · next hhi => exact h.setRootRec fun hr => ⟨hr.1, withHi_le hhi, hr.2.2⟩
    · exact h
  · exact h.setRootRec fun hr => ⟨hr.1, withLo_le hr.2.1 hv, hr.2.2⟩
  · refine h.setRootRec fun ⟨he, hw, hl, hl', _, _, ha⟩ => ⟨he, hw, hl, hl', ?_, ?_, ha⟩
    exacts [(clampTo_bounds (by decide) v).1, (clampTo_bounds (by decide) v).2]
  · refine h.setRootRec fun ⟨he, hw, _, _, hp⟩ => ⟨he, hw, ?_, ?_, hp⟩
    exacts [(clampTo_bounds (by decide) v).1, (clampTo_bounds (by decide) v).2]
  · split
    exacts [h.setRecord ⟨rfl, rfl, rfl, rfl, rfl⟩, h]

theorem Keeps.rootCommand (p : Part) {cmd : State → State × Status} (hc : Keeps none s (cmd t).1) :
    Keeps none s (Machine.rootCommand p cmd t).state := by
  unfold Machine.rootCommand
  dsimp only
  split <;> exact hc

theorem Keeps.retrain (h : Keeps none s t) (n : Dn) : Keeps none s (Machine.retrain n t) := by
  have hdown := h.weaken.enterDown (x := .d n)
  have hattempts : ∀ {u : State}, Keeps none s u → Keeps none s (u.setPort (.d n) { u.port (.d n) with attempts := 0 }) :=
    fun hu => hu.setPort fun ⟨_, hrest⟩ => ⟨Nat.zero_le _, hrest⟩
  unfold Machine.retrain
  dsimp only
  refine Keeps.followCondition (hattempts ?_) _
  split
  exacts [hdown.leaveUp, hdown]

theorem Keeps.commandRetrain (h : Keeps none s t) (i : Nat) : Keeps none s (Machine.commandRetrain i t).state := by
  unfold Machine.commandRetrain
  split
  exacts [h.retrain _, h]

theorem Keeps.commandFlush (h : Keeps none s t) (i : Nat) : Keeps none s (Machine.commandFlush i t).state := by
  unfold Machine.commandFlush
  split
  exacts [h.emptyEgress _, h]

theorem Keeps.executeOther (h : Keeps none s t) (r : Request) : Keeps none s (Machine.executeOther r t).state := by
  unfold Machine.executeOther
  split
  · unfold executeRead
    split <;> exact h
  · unfold executeWrite
    dsimp only
    split
    exacts [h.writeRoute _ _ _, h.writeDomainSlot _ _, h.writeDomainEntry _ _ _, h.writeRoot _ _ r.value.isLt, h]
  all_goals exact h

theorem Keeps.respond (r : Request) {o : Answer} (h : Keeps none s o.state) : Keeps none s (Machine.respond r o) := by
  unfold Machine.respond
  split
  exacts [h, h.placeResponse _]

theorem Keeps.takeHead (h : Keeps none s t) : Keeps none s (Machine.takeHead t) := by
  refine h.setMa (fun hl => ?_) ?_ fun _ => ?_
  · rw [List.length_drop]
    exact (Nat.sub_le _ _).trans hl
  all_goals exact id

theorem Keeps.judge (h : Keeps none s t) (r : Request) {rule : State → Answer} (hr : Keeps none s (rule t).state) :
    Keeps none s (Machine.judge r rule t).state := by
  unfold Machine.judge
  split
  exacts [h, hr]

theorem Keeps.agentTakes (h : Keeps none s t) (row : AgentRow) (r : Request) {rule : State → Answer}
    (hr : ∀ {u}, Keeps none s u → Keeps none s (rule u).state) : Keeps none s (Machine.agentTakes row r rule t) := by
  unfold Machine.agentTakes
  split
  exacts [(h.takeHead.judge r (hr h.takeHead)).respond r, h]

/-! Resets -/

theorem Port.Within.hubReset {loose : Prop} {p : Port} (h : p.Within loose) (now : Nat) :
    (p.hubReset now).Within loose := by
  obtain ⟨-, -, hlink, hpath, -, -⟩ := h
  exact ⟨Nat.zero_le _, Nat.zero_le _, hlink, hpath, .inr fun _ => Nat.zero_le _, by simp [Port.hubReset]⟩

theorem State.powerOn_queuesBounded (r : Role) : (State.powerOn r).QueuesBounded := by cases r <;> decide

theorem State.powerOn_fieldsInRange (r : Role) : (State.powerOn r).FieldsInRange := by cases r <;> decide

/-- A state within every bound keeps them, whatever was before. -/
theorem Keeps.of_bounded (hq : t.QueuesBounded) (hf : t.FieldsInRange) : Keeps none s t := by
  obtain ⟨hegress, hnotes, hresps, hreqs, hcaps, hqueues⟩ := hq
  obtain ⟨hports, hlat, htimer, hentries, htrigs, hhub, hcounters, hparts⟩ := hf
  exact
    { egress := fun n _ => hegress n
      noteQ := fun _ => hnotes
      respQ := fun _ => hresps
      requests := fun _ => hreqs
      captures := fun _ => hcaps
      ctx := fun p => ⟨fun _ => (hqueues p).1, fun _ => (hparts p).2⟩
      swaps := fun p _ => (hqueues p).2
      port := fun x _ => ((t.port x).inRange_iff_within.mp (hports x (mem_allPorts x))).weaken False.elim
      pathLat := fun _ => hlat
      timer := fun _ => htimer
      entry := fun i _ => hentries i
      trig := fun i _ => htrigs i
      hub := fun _ => hhub
      hubCounter := fun k _ => hcounters k
      rootRec := fun p _ => (hparts p).1 }

theorem Keeps.powerOnReset (rootsel : Bool) : Keeps none s (Machine.powerOnReset rootsel t) :=
  .of_bounded (State.powerOn_queuesBounded (if rootsel then .root else .child))
    (State.powerOn_fieldsInRange (if rootsel then .root else .child))

/-- A hub reset keeps the response queue and the ports' latencies; the rest begins as at power-on (R169, R18). -/
theorem Keeps.hubReset (h : Keeps none s t) : Keeps none s (Machine.hubReset t) := by
  have hfresh : Keeps none s (State.powerOn .child) :=
    .of_bounded (State.powerOn_queuesBounded _) (State.powerOn_fieldsInRange _)
  exact
    { hfresh with
      respQ := h.respQ
      port := fun x hx => by
        have hw := (h.port x hx).hubReset t.now
        cases x with
        | d n => simpa [Machine.hubReset, LinkPorts.hubReset, State.port] using hw
        | u => exact hw
      pathLat := h.pathLat
      timer := h.timer }

theorem Keeps.takeReset (h : Keeps none s t) (r : Request) : Keeps none s (Machine.takeReset r t) := by
  have hanswered := (h.takeHead.judge r (rule := fun u => taken u 0) h.takeHead).respond r
  unfold Machine.takeReset
  dsimp only
  split
  · split
    exacts [hanswered.hubReset, hanswered]
  · exact h

theorem Keeps.porstAsserted (h : Keeps none s t) : Keeps none s (Machine.porstAsserted t) := { h with }

/-! The rows of time -/

theorem Keeps.takeLevels (h : Keeps none s t) (trg : BitVec 8) (stl : BitVec 4) :
    Keeps none s (Machine.takeLevels trg stl t) := by
  have hshown : Keeps none s (showLevels t) := h.setDg (fun _ => id) fun _ => id
  unfold Machine.takeLevels
  dsimp only
  split
  · exact hshown
  · exact hshown.setRef fun _ => Nat.min_le_left _ _
  · refine Keeps.setNow (Keeps.setHu (hshown.setTu (fun _ => ?_) ?_) _) _ <;> exact id

theorem Keeps.endSettling (h : Keeps none s t) : Keeps none s (Machine.endSettling t) := by
  unfold Machine.endSettling
  split
  · refine Keeps.followConditions (Keeps.raise (h.setRef ?_) _)
    exact id
  · exact h

theorem Keeps.endWindow (h : Keeps none s t) (x : PortId) : Keeps none s (Machine.endWindow x t) := by
  unfold Machine.endWindow
  split
  exacts [h.weaken.failAttempt, h]

theorem Keeps.endRound (h : Keeps none s t) (n : Dn) : Keeps none s (Machine.endRound n t) := by
  unfold Machine.endRound
  split
  exacts [h.weaken.failAttempt, h]

theorem Keeps.refreshEnum (h : Keeps none s t) (n : Dn) : Keeps none s (Machine.refreshEnum n t) := by
  unfold Machine.refreshEnum
  split
  exacts [(h.setDLink n _).placeEnum n, h]

theorem Keeps.loseLock (h : Keeps none s t) : Keeps none s (Machine.loseLock t) := by
  unfold Machine.loseLock
  split
  exacts [h.lostReference, h]

/-! The rows of cells -/

theorem Keeps.onLink (h : Keeps none s t) (x : PortId) {act : Dn → State → State}
    (ha : ∀ n, Keeps none s (act n t)) : Keeps none s (Machine.onLink x act t) := by
  cases x with
  | d n => exact ha n
  | u => exact h

/-! Every command -/

theorem event_keeps {act : State → State} (ha : ∀ {u}, Keeps none s u → Keeps none s (act u)) :
    ∃ t, event act s = .next t ∧ Keeps none s t := by
  refine ⟨_, rfl, ?_⟩
  split
  exacts [.refl s, (ha (.refl s)).settle]

theorem exec_keeps (c : Instr) (s : State) : ∃ t, exec c s = .next t ∧ Keeps none s t := by
  have hcell : ∀ (x : PortId) (k : Kind) {act : State → State}, (∀ {u}, Keeps none s u → Keeps none s (act u)) →
      ∃ t, event (Machine.receive x k act) s = .next t ∧ Keeps none s t := fun x k {_} ha =>
    event_keeps fun hu => Keeps.receive (fun _ => ha) hu x k
  have hreport : ∀ (x : PortId) (k : Kind) (p : Part) {act : Dn → State → State},
      (∀ n {u}, Keeps none s u → Keeps none s (act n u)) →
      ∃ t, event (Machine.receive x k (Machine.onLink x fun n => Machine.acceptSummary p n (act n))) s = .next t ∧
        Keeps none s t := fun x k p {_} ha => hcell x k fun hu => hu.onLink x fun n => hu.acceptSummary p n (ha n hu)
  have hagent : ∀ (row : AgentRow) (r : Request) {rule : State → Answer},
      (∀ {u}, Keeps none s u → Keeps none s (rule u).state) →
      ∃ t, event (Machine.agentTakes row r rule) s = .next t ∧ Keeps none s t := fun row r {_} hr =>
    event_keeps fun hu => hu.agentTakes row r hr
  cases c with
  | powerOnReset rootsel => exact ⟨_, rfl, .powerOnReset rootsel⟩
  | signalPresent src => exact event_keeps fun hu => hu.signalPresent src
  | signalLost src => exact event_keeps fun hu => hu.signalLost src
  | lossOfLock => exact event_keeps fun hu => hu.loseLock
  | settleTimerExpiry => exact event_keeps fun hu => hu.endSettling
  | trainingWindowExpiry x => exact event_keeps fun hu => hu.endWindow x
  | roundTimeout n => exact event_keeps fun hu => hu.endRound n
  | enumRefreshExpiry n => exact event_keeps fun hu => hu.refreshEnum n
  | idle x => exact hcell x .idle id
  | badCell x bytes =>
    refine event_keeps (act := fun u => if checkPasses bytes then u else Machine.receiveBad x u) fun hu => ?_
    split
    exacts [hu, hu.receiveBad x]
  | unknownKind x kind =>
    refine event_keeps (act := fun u => if (Kind.ofCode kind).isSome then u else Machine.receiveUnknown x u) fun hu => ?_
    split
    exacts [hu, hu.receiveUnknown x]
  | echo x round => exact hcell x .echo fun hu => hu.takeEcho round
  | echoBack x round => exact hcell x .echoBack fun hu => hu.onLink x fun n => hu.takeEchoBack n round
  | enum x addr depth lat => exact hcell x .enum fun hu => hu.takeEnum addr depth lat
  | dPortCellSlot n => exact event_keeps fun hu => hu.slotD n
  | uPortCellSlot => exact event_keeps fun hu => hu.slotU
  | step x p n age => exact hcell x .step fun hu => hu.deliverStep p n age
  | start x p e => exact hcell x .start fun hu => hu.deliverRun p _
  | freeze x p f causes short => exact hcell x .freeze fun hu => hu.deliverRun p _
  | resume x p r => exact hcell x .resume fun hu => hu.deliverRun p _
  | abort x p => exact hcell x .abort fun hu => hu.deliverRun p _
  | swap x p w => exact hcell x .swap fun hu => hu.deliverRun p _
  | mreq x r => exact hcell x .mreq fun hu => hu.routeRequest r
  | hold x p stamp => exact hreport x .hold p fun n _ hu => hu.takeHold p n stamp
  | haltreq x p cls r => exact hreport x .haltreq p fun _ _ hu => hu.offerHalt p cls r
  | fault x p r => exact hreport x .fault p fun _ _ hu => hu.takeFault p r
  | pace x p slow => exact hreport x .pace p fun n _ hu => hu.takePace p n slow
  | note x n => exact hcell x .note fun hu => hu.placeNote n
  | mrsp x r => exact hcell x .mrsp fun hu => hu.placeResponse r
  | stepExecution p => exact event_keeps fun hu => hu.executeHead p
  | frozenStallSampling p => exact event_keeps fun hu => hu.sampleFrozen p
  | stepIssue p => exact event_keeps fun hu => hu.pace p
  | rootFrozen p => exact event_keeps fun hu => hu.rootFreeze p
  | cmdStart r => exact hagent .start r fun hu => Keeps.rootCommand _ (hu.rootStart _)
  | cmdPause r => exact hagent .pause r fun hu => Keeps.rootCommand _ (hu.rootPause _)
  | cmdContinue r => exact hagent .continue r fun hu => Keeps.rootCommand _ (hu.rootContinue _)
  | cmdAbort r => exact hagent .abort r fun hu => Keeps.rootCommand _ (hu.rootAbort _)
  | cmdSwap r => exact hagent .swap r fun hu => Keeps.rootCommand _ (hu.rootSwap _)
  | cmdResetHub r => exact event_keeps fun hu => hu.takeReset r
  | cmdRetrain r => exact hagent .retrain r fun hu => hu.commandRetrain _
  | cmdFlush r => exact hagent .flush r fun hu => hu.commandFlush _
  | capturePop r => exact hagent .capturePop r fun hu => hu.popCapture
  | triggerWrite r => exact hagent .triggerWrite r fun hu => hu.writeTrigger _ _ _
  | stallWrite r => exact hagent .stallWrite r fun hu => hu.writeStall _ _ _
  | outputWrite r => exact hagent .outputWrite r fun hu => hu.writeOutput _ _ _
  | hubWrite r => exact hagent .hubWrite r fun hu => hu.writeHub _ _
  | counterWrite r => exact hagent .counterWrite r fun hu => hu.writeCounter _
  | eventsWrite r => exact hagent .eventsWrite r fun hu => hu.writeEvents _ _
  | managementWrite r => exact hagent .managementWrite r fun hu => hu.executeOther r
  | levelTakenEachRp trg stl => exact event_keeps fun hu => hu.takeLevels trg stl
  | porstAsserted => exact ⟨_, rfl, Keeps.porstAsserted (.refl s)⟩

/-- What is within its bounds stays so at every step. -/
theorem step_keeps (h : step s = .next t) : Keeps none s t := by
  cases hp : s.pending with
  | nil =>
    rw [step_idle s hp] at h
    cases h
    exact .refl s
  | cons c rest =>
    obtain ⟨u, he, hu⟩ := exec_keeps c { s with pending := rest }
    rw [step_front s c rest hp, he] at h
    cases h
    exact { hu with }

/-- Settles O5: each command, operation by operation, keeps each bound by itself. -/
theorem queuesAndFieldsStayInRange : Obligations.QueuesAndFieldsStayInRange := fun _ _ h =>
  ⟨(step_keeps h).queuesBounded, (step_keeps h).fieldsInRange⟩

end

end Sys2Proof.Machine
end

section
/-! SUPPORT. Cells that come up from a child (R49, R50, R56, R120), and the statements about summaries, notes and responses. -/

namespace Sys2Proof.Machine
open Sys2Proof

/-! What a hub that heard a cell is -/

@[simp] theorem heard_counter (x y : PortId) (k : Fin 8) (s : State) : (s.heard x).counter y k = s.counter y k := by
  by_cases h : x = y
  · subst h; simp [State.heard, clearBadRun, State.counter]
  · simp [State.heard, clearBadRun, State.counter, h]

@[simp] theorem heard_isUp_at (x y : PortId) (s : State) : (s.heard x).isUp y = s.isUp y := by
  by_cases h : x = y
  · subst h; simp [State.heard, clearBadRun, State.isUp]
  · simp [State.heard, clearBadRun, State.isUp, h]

@[simp] theorem heard_isRoot (x : PortId) (s : State) : (s.heard x).isRoot = s.isRoot := by
  simp [State.heard, clearBadRun, State.isRoot]
  cases x <;> rfl

@[simp] theorem heard_upstreamOpen (x : PortId) (s : State) : (s.heard x).upstreamOpen = s.upstreamOpen := by
  simp [State.upstreamOpen]

@[simp] theorem heard_pse (x : PortId) (s : State) : (s.heard x).pse = s.pse := by
  cases x <;> rfl

/-- What a log says of the hub that heard a cell it says of the hub before. -/
theorem Logged.of_heard {es : List Event} {cs : List (PortId × Fin 8)} {hs : List (Fin 3)} {x : PortId} {s t : State}
    (h : Logged es cs hs (s.heard x) t) : Logged es cs hs s t := by
  simpa only [Logged, State.latched, State.hubCounter, heard_counter, heard_ma] using h

/-! Cells of an upward kind at a D port in UP -/

/-- A good cell of a kind that Table 1-3 delivers at a D port in UP. -/
theorem receive_up {n : Dn} {k : Kind} {s : State} (act : State → State) (hu : s.isUp (.d n) = true)
    (hk : k.direction = .up) (hb : k ≠ .echoBack) : receive (.d n) k act s = act (s.heard (.d n)) := by
  have hst : (s.port (.d n)).state = .up := by simpa [State.isUp] using hu
  refine receive_delivered act (aligned_iff.mpr (.inr (.inr hst))) (by simp [State.conflicts, hk]) ?_
  cases k <;> simp_all [State.delivers, Kind.direction]

/-- A summary cell on link `n` is judged by the hub that heard it (R49). -/
theorem exec_report {c : Instr} {n : Dn} {p : Part} {s : State} (hs : s.Ready) (hu : s.isUp (.d n) = true)
    (hc : c.reports = some (n, p)) :
    ∃ act, exec c s = .next (settle (acceptSummary p n act (s.heard (.d n)))) := by
  have hrow : ∀ (k : Kind) (act : State → State), k.direction = .up → k ≠ .echoBack →
      event (receive (.d n) k (onLink (.d n) fun m => acceptSummary p m act)) s =
        .next (settle (acceptSummary p n act (s.heard (.d n)))) := fun k act hk hb => by
    rw [event_of_ready _ hs, receive_up _ hu hk hb]; rfl
  unfold Instr.reports at hc
  split at hc
  case h_1 stamp => cases hc; exact ⟨_, hrow .hold (takeHold p n stamp) rfl (by decide)⟩
  case h_2 cls h => cases hc; exact ⟨_, hrow .haltreq (offerHalt p cls h) rfl (by decide)⟩
  case h_3 r => cases hc; exact ⟨_, hrow .fault (takeFault p r) rfl (by decide)⟩
  case h_4 slow => cases hc; exact ⟨_, hrow .pace (takePace p n slow) rfl (by decide)⟩
  case h_5 => cases hc

section
variable {n : Dn} {p : Part} {s : State}

theorem heard_inMask (x : PortId) : (s.heard x).inMask p n = s.inMask p n := by
  simp only [State.inMask, State.route, heard_cf]

theorem heard_ctx (x : PortId) : (s.heard x).ctx p = s.ctx p := by simp only [State.ctx, heard_pse]

@[simp] theorem heard_slots (x : PortId) : (s.heard x).slots p = s.slots p := by simp only [State.slots, heard_cf]

theorem acceptSummary_accepted {act : State → State} (hm : s.inMask p n = true) (hi : (s.ctx p).state ≠ .idle)
    (x : PortId) : acceptSummary p n act (s.heard x) = act (s.heard x) := by
  simp [acceptSummary, heard_inMask, heard_ctx, hm, hi]

/-- At a child a HALTREQ takes its class's slot when that is empty or holds a greater stamp (R120). -/
theorem offerHalt_child (cls : Fin 4) (h : HaltReq) {s : State} (hr : s.isRoot = false) :
    offerHalt p cls h s =
      if ∀ g ∈ look (s.slots p).haltreq cls, h.stamp < g.stamp then
        s.setSlots p { s.slots p with haltreq := upd (s.slots p).haltreq cls (some h) }
      else s := by
  unfold offerHalt
  rw [hr]
  cases hg : look (s.slots p).haltreq cls <;> simp

theorem writeFault_child (r : FaultReport) {s : State} (hr : s.isRoot = false) :
    writeFault p r s = s.setSlots p { s.slots p with fault := some ((s.slots p).fault.getD r) } := by
  rcases writeFault_cases p r s with ⟨hroot, -⟩ | ⟨-, hw⟩
  · simp [hr] at hroot
  · exact hw

end

/-- Settles O38: a summary is stray, discarded or taken, by the branches of R49. -/
theorem summariesAccepted : Obligations.SummariesAccepted := by
  intro n p c cls h f s hs hu
  have hset : (s.heard (.d n)).Settled := heard_settled hs.2
  refine ⟨fun hc hm => ?_, fun hc hm hi => ?_, fun hr hm hi => ⟨?_, ?_⟩⟩
  · obtain ⟨act, he⟩ := exec_report hs hu hc
    refine ⟨_, he, ?_⟩
    simp only [acceptSummary, heard_inMask, hm, Bool.not_false, if_true]
    exact ((Recording.start hset).bump (by simp)).settle
  · obtain ⟨act, he⟩ := exec_report hs hu hc
    simp only [acceptSummary, heard_inMask, hm, heard_ctx, hi, Bool.not_true, Bool.false_eq_true, if_false, if_true,
      settle_of_settled hset] at he
    exact he
  · have hoffer := offerHalt_child (p := p) cls h (s := s.heard (.d n)) (by simp [hr])
    have hact : receive (.d n) .haltreq (onLink (.d n) fun m => acceptSummary p m (offerHalt p cls h)) s =
        offerHalt p cls h (s.heard (.d n)) :=
      (receive_up _ hu rfl (by decide)).trans (acceptSummary_accepted hm hi _)
    simp only [heard_slots] at hoffer
    refine (event_of_ready _ hs).trans ?_
    rw [hact, hoffer]
    split <;> exact congrArg _ (settle_of_settled (settled_of_own hset rfl))
  · have hact : receive (.d n) .fault (onLink (.d n) fun m => acceptSummary p m (takeFault p f)) s =
        takeFault p f (s.heard (.d n)) :=
      (receive_up _ hu rfl (by decide)).trans (acceptSummary_accepted hm hi _)
    refine (event_of_ready _ hs).trans ?_
    rw [hact]
    simp only [takeFault, heard_isRoot, hr, Bool.false_eq_true, if_false]
    rw [writeFault_child f (by simp [hr]), heard_slots]
    exact congrArg _ (settle_of_settled (settled_of_own hset rfl))

/-! Notes and responses on their way up -/

/-- What placing a note and rewriting the model's own lists keep, placing the notes of a command keeps. -/
theorem settleNotes_keeps {P : State → Prop} (hown : ∀ s v, P s → P (s.setOwn v))
    (hplace : ∀ n s, P s → P (placeNote n s)) : ∀ (k : Nat) {s : State}, P s → P (settleNotes k s)
  | 0, _, h => hown _ _ h
  | k + 1, s, h => by
    have hfold : ∀ (l : List Note) {u : State}, P u → P (l.foldl (fun v n => placeNote n v) u) := by
      intro l
      induction l with
      | nil => exact id
      | cons n l ih => exact fun hu => ih (hplace n _ hu)
    unfold settleNotes
    split
    · exact h
    · exact settleNotes_keeps hown hplace k (hfold _ (hown _ _ (hown _ _ h)))

@[simp] theorem bump_cf (x : PortId) (k : Fin 8) (s : State) : (bump x k s).cf = s.cf := by
  rcases bump_eq_countUp x k s with h | h <;> simp [h]

theorem bump_counter_self (x : PortId) (k : Fin 8) (s : State) : (bump x k s).counter x k = satSucc (s.counter x k) := by
  rcases bump_eq_countUp x k s with h | h <;> simp [h, countUp_counter]

/-- A full note queue takes nothing (R59). -/
theorem settleNotes_noteQ_of_full (k : Nat) {s : State} (h : 16 ≤ s.cf.noteQ.length) :
    (settleNotes k s).cf.noteQ = s.cf.noteQ := by
  refine settleNotes_keeps (P := fun u => u.cf.noteQ = s.cf.noteQ) (fun _ _ => id) (fun n u hu => ?_) k rfl
  rcases placeNote_cases n u with ⟨-, hp⟩ | ⟨-, hroom, -⟩ | ⟨-, -, hp⟩
  · rwa [hp]
  · rw [hu] at hroom; omega
  · rw [hp, raise_cf, bump_cf, hu]

theorem satSucc_counterMax : satSucc counterMax = counterMax := by decide

/-- A full NOTE_DROP counter stays full. -/
theorem settleNotes_noteDrop_of_full (k : Nat) {s : State} (h : s.counter .u kNoteDrop = counterMax) :
    (settleNotes k s).counter .u kNoteDrop = counterMax := by
  refine settleNotes_keeps (P := fun u => u.counter .u kNoteDrop = counterMax) (fun _ _ => id) (fun n u hu => ?_) k h
  rcases placeNote_cases n u with ⟨-, hp⟩ | ⟨-, -, hp⟩ | ⟨-, -, hp⟩ <;> rw [hp]
  · exact hu
  · exact hu
  · rw [raise_counter, bump_counter_self, hu, satSucc_counterMax]

theorem raise_of_latched {e : Event} {s : State} (h : s.latched e = true) : raise e s = s := if_pos h

/-- A dropped note counts once in NOTE_DROP where NOTE_DROP is latched: the note of a counter that it fills finds the counter
full. -/
theorem dropNote_counter {s : State} (hs : s.Settled) (hl : s.latched .noteDrop = true) :
    (settle (raise .noteDrop (bump .u kNoteDrop s))).counter .u kNoteDrop = satSucc (s.counter .u kNoteDrop) := by
  have hrec := (Recording.start hs).dropNote
  have hdropped : raise .noteDrop (bump .u kNoteDrop s) = bump .u kNoteDrop s := by
    refine raise_of_latched ?_
    rcases bump_eq_countUp .u kNoteDrop s with h | h <;> rw [h]
    · exact hl
    · exact raise_keeps_latched _ _ _ hl
  rw [settle, settleReports_nil 2 _ hrec.noReport, hdropped]
  by_cases hc : s.counter .u kNoteDrop + 1 = counterMax
  · have hfull : (bump .u kNoteDrop s).counter .u kNoteDrop = counterMax := by
      rw [bump_counter_self, satSucc, if_pos (by omega), hc]
    rw [settleNotes_noteDrop_of_full 3 hfull, ← hfull, bump_counter_self]
  · have hplain : bump .u kNoteDrop s = countUp .u kNoteDrop s := if_neg hc
    rw [hplain, settleNotes_of_none 3 _ (by simpa using hs.1), countUp_counter, if_pos rfl]

/-- Settles O41: the three outcomes of R50 and R59 for a NOTE, and for an MRSP. -/
theorem notesAndResponsesPass : Obligations.NotesAndResponsesPass := by
  intro k n r s hs hu
  have hset : (s.heard (.d k)).Settled := heard_settled hs.2
  have hnote : exec (.note (.d k) n) s = .next (settle (placeNote n (s.heard (.d k)))) :=
    (event_of_ready _ hs).trans (by rw [receive_up _ hu rfl (by decide)])
  have hresp : exec (.mrsp (.d k) r) s = .next (settle (placeResponse r (s.heard (.d k)))) :=
    (event_of_ready _ hs).trans (by rw [receive_up _ hu rfl (by decide)])
  have hopen : s.upstreamOpen = false ↔ s.isRoot = true ∧ s.isUp .u = false := by
    simp [State.upstreamOpen]
  refine ⟨⟨_, hnote, ?_⟩, ⟨_, hresp, ?_⟩⟩
  · intro h
    rcases placeNote_cases n h with ⟨hclosed, hp⟩ | ⟨hopened, hroom, hp⟩ | ⟨hopened, hfull, hp⟩ <;> rw [hp]
    · rw [heard_upstreamOpen] at hclosed
      rw [if_pos (hopen.mp hclosed)]
      exact settle_of_settled hset
    · rw [heard_upstreamOpen] at hopened
      rw [heard_cf] at hroom
      rw [if_neg (by simp [← hopen, hopened]), if_pos hroom, heard_cf]
      exact settle_of_settled (settled_of_own hset rfl)
    · rw [heard_upstreamOpen] at hopened
      rw [heard_cf] at hfull
      rw [if_neg (by simp [← hopen, hopened]), if_neg (by omega)]
      have hrec := (Recording.start hset).dropNote
      have hraised := ((Recording.start hset).bump_of (cs' := []) (x := .u) (k := kNoteDrop)
        (fun c hc => by simp [hc]) (.inr rfl)).raise .noteDrop
      obtain ⟨hsame, hlogged, -⟩ := hrec.settle
      refine ⟨hsame, ?_, hraised.settle.2.1.1 _ (by simp), fun hl => ?_, hlogged.of_heard⟩
      · rw [settle, settleReports_nil 2 _ hrec.noReport, settleNotes_noteQ_of_full 3 (by simpa [h] using hfull)]
        simp
      · rw [dropNote_counter hset (by simpa [State.latched] using hl), heard_counter]
  · intro h
    rcases placeResponse_cases r h with ⟨hclosed, hp⟩ | ⟨hopened, hroom, hp⟩ | ⟨hopened, hfull, hp⟩ <;> rw [hp]
    · rw [heard_upstreamOpen] at hclosed
      rw [if_pos (hopen.mp hclosed)]
      exact settle_of_settled hset
    · rw [heard_upstreamOpen] at hopened
      rw [heard_cf] at hroom
      rw [if_neg (by simp [← hopen, hopened]), if_pos hroom, heard_cf]
      exact settle_of_settled (settled_of_own hset rfl)
    · rw [heard_upstreamOpen] at hopened
      rw [heard_cf] at hfull
      rw [if_neg (by simp [← hopen, hopened]), if_neg (by omega)]
      exact ((Recording.start hset).bump (by simp)).settle

end Sys2Proof.Machine
end

section
/-! SUPPORT. The slot of a child's U in UP (R58), and the statement about the summaries that it serves. -/

namespace Sys2Proof.Machine
open Sys2Proof

/-! The HALTREQ slots by class -/

theorem Slots.firstHalt_eq_some {g : Slots} {c : Fin 4} {h : HaltReq} (hlow : ∀ d : Fin 4, d < c → look g.haltreq d = none)
    (hc : look g.haltreq c = some h) : g.firstHalt = some (c, h) := by
  unfold Slots.firstHalt
  fin_cases c
  · simp_all
  · have h0 := hlow 0 (by decide)
    simp_all
  · have h0 := hlow 0 (by decide)
    have h1 := hlow 1 (by decide)
    simp_all
  · have h0 := hlow 0 (by decide)
    have h1 := hlow 1 (by decide)
    have h2 := hlow 2 (by decide)
    simp_all

theorem Slots.firstHalt_eq_none {g : Slots} (hnone : ∀ c : Fin 4, look g.haltreq c = none) : g.firstHalt = none := by
  simp [Slots.firstHalt, hnone]

/-! The slot that is sent -/

/-- The cell that goes out for a partition with pending slots `g`, and the slots that it leaves, are those of R58's order. -/
def Slots.Sends (g : Slots) (p : Part) (c : Cell) (g' : Slots) : Prop :=
  (∀ r ∈ g.fault, c = .fault p r ∧ g' = { g with fault := none }) ∧
  (g.fault = none →
    (∀ k h, g.firstHalt = some (k, h) → c = .haltreq p k h ∧ g' = { g with haltreq := upd g.haltreq k none }) ∧
    (g.firstHalt = none →
      (∀ x, g.hold = some (.on x) → c = .hold p (some x) ∧ g' = { g with hold := none, reported := true }) ∧
      (g.hold = some .off → c = .hold p none ∧ g' = { g with hold := none, reported := false }) ∧
      (g.hold = none → ∀ v ∈ g.pace, c = .pace p v ∧ g' = { g with pace := none })))

theorem sendSlot_sends {p : Part} {s : State} (h : (s.slots p).pending = true) :
    ∃ c g', sendSlot p s = sendCell .u c (s.setSlots p g') ∧ (s.slots p).Sends p c g' := by
  unfold sendSlot
  dsimp only
  split
  case h_1 r hf => exact ⟨_, _, rfl, by simp [Slots.Sends, hf]⟩
  case h_2 k r hf hh => exact ⟨_, _, rfl, by simp [Slots.Sends, hf, hh]⟩
  case h_3 m hf hh hm => exact ⟨_, _, rfl, by simp [Slots.Sends, hf, hh, hm]⟩
  case h_4 hf hh hm => exact ⟨_, _, rfl, by simp [Slots.Sends, hf, hh, hm]⟩
  case h_5 v hf hh hm hv => exact ⟨_, _, rfl, by simp [Slots.Sends, hf, hh, hm, hv]⟩
  case h_6 hf hh hm hv => simp [Slots.pending, hf, hh, hm, hv] at h

/-! The partition that is served -/

/-- The first partition after the last served that has a pending slot is found (R58). -/
theorem find_searchOrder {s : State} {k : Fin 4} {p : Part} (hp : p = Fin.ofNat 4 (s.cf.lastServed.val + 1 + k.val))
    (hpending : (s.slots p).pending = true)
    (hbefore : ∀ j : Fin 4, j < k → (s.slots (Fin.ofNat 4 (s.cf.lastServed.val + 1 + j.val))).pending = false) :
    (s.searchOrder.find? fun q => (s.slots q).pending) = some p := by
  subst hp
  have horder : s.searchOrder =
      ([0, 1, 2, 3] : List (Fin 4)).map fun j => Fin.ofNat 4 (s.cf.lastServed.val + 1 + j.val) := by
    simp [State.searchOrder, Nat.add_assoc]
  rw [horder]
  fin_cases k
  · simp_all
  · have h0 := hbefore 0 (by decide)
    simp_all
  · have h0 := hbefore 0 (by decide)
    have h1 := hbefore 1 (by decide)
    simp_all
  · have h0 := hbefore 0 (by decide)
    have h1 := hbefore 1 (by decide)
    have h2 := hbefore 2 (by decide)
    simp_all

/-- No ECHO_BACK goes ahead where none is due (R29). -/
theorem echoNow_eq_none {s : State} (h : ∀ e ∈ s.lp.echoes.head?, s.now < e.due) : s.echoNow = none := by
  unfold State.echoNow
  split
  · next e es he => exact if_neg (by have := h e (by simp [he]); omega)
  · rfl

/-- The slot of a child's U in UP with no ECHO_BACK due (R58). -/
theorem slotU_up {s : State} (hroot : s.isRoot = false) (hup : (s.port .u).state = .up) (htx : s.transmits .u = true)
    (hdue : s.slotDueU = true) (hecho : s.echoNow = none) : slotU s = upSlotU s := by
  simp [slotU, htx, hdue, hup, hroot, echoOr, hecho]

/-- Settles O44: the partition is the first in the search order, its cell the first of its slots. -/
theorem summariesAreServed : Obligations.SummariesAreServed := by
  intro k p s ⟨hs, hroot, hup⟩ htx hdue hecho hp hpending hbefore
  let u := s.setCf { s.cf with lastServed := p }
  obtain ⟨c, g', hsent, hsends⟩ := sendSlot_sends (s := u) (p := p) hpending
  have hact : slotU s = sendCell .u c (u.setSlots p g') := by
    rw [slotU_up hroot hup htx hdue (echoNow_eq_none hecho), ← hsent]
    simp only [upSlotU, find_searchOrder hp hpending hbefore]
    rfl
  have hslots : (slotU s).slots p = g' := by
    rw [hact]
    simp [sendCell]
  have hcell : ((slotU s).port .u).sent = some c := by
    rw [hact]
    simp [sendCell]
  refine ⟨slotU s, event_of_settled hs (settled_of_own hs.2 (by rw [hact]; rfl)), ?_, ?_⟩
  · rw [hslots, hcell, hact]
    rfl
  · rw [hslots, hcell]
    obtain ⟨hfault, hrest⟩ : (s.slots p).Sends p c g' := hsends
    refine ⟨fun r hr => ?_, fun hnofault => ⟨fun cls hlow h hh => ?_, fun hnohalt => ⟨fun m hm => ?_,
      fun hnohold v hv => ?_⟩⟩⟩
    · simpa using hfault r hr
    · simpa using (hrest hnofault).1 cls h (Slots.firstHalt_eq_some hlow hh)
    · obtain ⟨hon, hoff, -⟩ := (hrest hnofault).2 (Slots.firstHalt_eq_none hnohalt)
      cases m with
      | on x => simpa using hon x hm
      | off => simpa using hoff hm
    · simpa using ((hrest hnofault).2 (Slots.firstHalt_eq_none hnohalt)).2.2 hnohold v hv

end Sys2Proof.Machine
end

section
/-! SUPPORT. The pace states and what follows them (R84, Table 4-5), apart from PACE_SLOW: the record of a run of
recomputations, and the ways in which a change of one link's queues moves them. -/

namespace Sys2Proof.Machine
open Sys2Proof

/-! Writers beside the log -/

/-- An operation that commutes with leaving out the log, and leaves ports, agent, note queue and the model's own lists. -/
theorem LogBlind.of_commutes {act : State → State} (hc : ∀ s, (act s).sansLog = act s.sansLog)
    (hl : ∀ s, (act s).lp = s.lp) (hm : ∀ s, (act s).ma = s.ma) (hn : ∀ s, (act s).cf.noteQ = s.cf.noteQ)
    (ho : ∀ s, (act s).own = s.own) : LogBlind act where
  sansLog s t h := by rw [hc, hc, h]
  latches s := by rw [hm]
  enables s := by rw [hm]
  counter s x k := by
    have hp : (act s).port x = s.port x := by cases x <;> simp only [State.port, hl]
    rw [State.counter, hp, State.counter]
  hubCounter s k := by rw [State.hubCounter, hm, State.hubCounter]
  noteQ := hn
  own := ho

/-! A pace state recomputed -/

/-- The slow flag of the root record of `p` once its sources give the pace state `v` (R60, R84, R141). -/
def State.slowAfter (s : State) (p : Part) (v : Bool) : Bool :=
  if v = (s.ctx p).pace ∨ (s.ctx p).state = .idle then (s.rootRec p).slow else v

/-- The pace state of `p` recomputed, PACE_SLOW apart (R84). -/
def repace (p : Part) (s : State) : State :=
  let t := s.setCtx p { s.ctx p with pace := s.paceOf p }
  if s.isRoot then t.setRootRec p { s.rootRec p with slow := s.slowAfter p (s.paceOf p) }
  else t.setSlots p { s.slots p with pace := s.paceSlotAfter p (s.paceOf p) }

/-- PACE_SLOW, where the pace state of `p` is about to go from OK to SLOW (R84). -/
def State.slows (s : State) (p : Part) : Bool := !(s.ctx p).pace && s.paceOf p

/-- A pace state that has not moved, or is an IDLE context's, is written to no slot (R84). -/
theorem repace_of_unreported {p : Part} {s : State} (h : s.paceOf p = (s.ctx p).pace ∨ (s.ctx p).state = .idle) :
    repace p s = s.setCtx p { s.ctx p with pace := s.paceOf p } := by
  unfold repace State.slowAfter State.paceSlotAfter
  rw [if_pos h, if_pos h]
  dsimp only
  split
  exacts [(s.setCtx p { s.ctx p with pace := s.paceOf p }).setRootRec_rootRec p,
    (s.setCtx p { s.ctx p with pace := s.paceOf p }).setSlots_slots p]

theorem repace_of_same {p : Part} {s : State} (h : s.paceOf p = (s.ctx p).pace) : repace p s = s := by
  rw [repace_of_unreported (.inl h), h]
  exact s.setCtx_ctx p

theorem repace_of_reported {p : Part} {s : State} (h : s.paceOf p ≠ (s.ctx p).pace) (hi : (s.ctx p).state ≠ .idle) :
    repace p s = writePace p (s.paceOf p) (s.setCtx p { s.ctx p with pace := s.paceOf p }) := by
  have hmoved : ¬(s.paceOf p = (s.ctx p).pace ∨ (s.ctx p).state = .idle) := by simp [h, hi]
  simp only [repace, State.slowAfter, State.paceSlotAfter, writePace, if_neg hmoved]
  rfl

theorem settlePace_eq (p : Part) (s : State) :
    settlePace p s = if s.slows p then raise .paceSlow (repace p s) else repace p s := by
  by_cases hmoved : s.paceOf p = (s.ctx p).pace
  · have hs : s.slows p = false := by simp [State.slows, hmoved]
    rw [hs, repace_of_same hmoved]
    simp [settlePace, hmoved]
  · have hs : s.slows p = s.paceOf p := by
      cases hv : s.paceOf p <;> cases hc : (s.ctx p).pace <;> simp_all [State.slows]
    by_cases hi : (s.ctx p).state = .idle
    · rw [hs, repace_of_unreported (.inr hi)]
      simp only [settlePace, if_neg hmoved, if_pos hi]
    · rw [hs, repace_of_reported hmoved hi]
      simp only [settlePace, if_neg hmoved, if_neg hi]

theorem repace_logBlind (p : Part) : LogBlind (repace p) := by
  refine LogBlind.of_commutes (fun s => ?_) (fun s => ?_) (fun s => ?_) (fun s => ?_) fun s => ?_
  all_goals
    have hr : s.sansLog.isRoot = s.isRoot := rfl
    cases hs : s.isRoot <;> simp only [repace, hr, hs] <;> rfl

/-- What is read beside the log is the same while a command only records. -/
theorem Recording.slows_eq {es : List Event} {cs : List (PortId × Fin 8)} {hs : List (Fin 3)} {s t : State}
    (h : Recording es cs hs s t) (p : Part) : t.slows p = s.slows p :=
  congrArg (fun u => u.slows p) (show t.sansLog = s.sansLog from h.sansLog_eq)

theorem Recording.settlePace {es : List Event} {cs : List (PortId × Fin 8)} {hs : List (Fin 3)} {s t : State}
    (h : Recording es cs hs s t) (p : Part) :
    Recording ((if s.slows p then [.paceSlow] else []) ++ es) cs hs (repace p s) (Machine.settlePace p t) := by
  rw [settlePace_eq, h.slows_eq p]
  split
  exacts [(h.map (repace_logBlind p)).raise .paceSlow, h.map (repace_logBlind p)]

/-! What a recomputation leaves -/

theorem repace_child {p : Part} {s : State} (h : s.isRoot = false) : repace p s =
    (s.setCtx p { s.ctx p with pace := s.paceOf p }).setSlots p
      { s.slots p with pace := s.paceSlotAfter p (s.paceOf p) } := by simp [repace, h]

theorem repace_root {p : Part} {s : State} (h : s.isRoot = true) : repace p s =
    (s.setCtx p { s.ctx p with pace := s.paceOf p }).setRootRec p
      { s.rootRec p with slow := s.slowAfter p (s.paceOf p) } := by simp [repace, h]

theorem repace_frame (p : Part) (s : State) : ((repace p s).setPse s.pse).setCf s.cf = s.setRc (repace p s).rc ∧
    (repace p s).cf = { s.cf with slots := (repace p s).cf.slots } ∧ (s.isRoot = false → (repace p s).rc = s.rc) ∧
    (s.isRoot = true → (repace p s).cf = s.cf) := by
  cases h : s.isRoot
  · simp [repace_child h, State.setSlots, State.setCtx, State.setPse, State.setCf, State.setRc]
  · simp [repace_root h, State.setRootRec, State.setCtx, State.setPse, State.setCf, State.setRc]

@[simp] theorem repace_isRoot (p : Part) (s : State) : (repace p s).isRoot = s.isRoot := by
  unfold repace; dsimp only; split <;> rfl

theorem repace_ctx (p q : Part) (s : State) :
    (repace p s).ctx q = if p = q then { s.ctx q with pace := s.paceOf q } else s.ctx q := by
  unfold repace; dsimp only
  by_cases h : p = q
  · subst h; split <;> simp
  · split <;> simp [h]

/-- No pace state is a source of another (Table 4-5). -/
@[simp] theorem repace_paceOf (p q : Part) (s : State) : (repace p s).paceOf q = s.paceOf q := by
  have hcf : (repace p s).cf = { s.cf with slots := (repace p s).cf.slots } := (repace_frame p s).2.1
  have hroute : (repace p s).cf.routes = s.cf.routes := by rw [hcf]
  have hegress : (repace p s).cf.egress = s.cf.egress := by rw [hcf]
  simp only [State.paceOf, State.inMask, State.route, State.egress, hroute, hegress, repace_ctx]
  split <;> rfl

theorem repace_slots {p : Part} {s : State} (h : s.isRoot = false) (q : Part) : (repace p s).slots q =
    if p = q then { s.slots q with pace := s.paceSlotAfter q (s.paceOf q) } else s.slots q := by
  rw [repace_child h]
  by_cases e : p = q
  · subst e; simp
  · simp [e]

theorem repace_rootRec {p : Part} {s : State} (h : s.isRoot = true) (q : Part) : (repace p s).rootRec q =
    if p = q then { s.rootRec q with slow := s.slowAfter q (s.paceOf q) } else s.rootRec q := by
  rw [repace_root h]
  by_cases e : p = q
  · subst e; simp
  · simp [e]

/-! Every pace state recomputed -/

/-- The pace states of the partitions of `l` recomputed in turn. -/
def repaces (l : List Part) (s : State) : State := l.foldl (fun t p => repace p t) s

theorem repaces_cons (p : Part) (l : List Part) (s : State) : repaces (p :: l) s = repaces l (repace p s) := rfl

@[simp] theorem repaces_paceOf (l : List Part) (q : Part) (s : State) : (repaces l s).paceOf q = s.paceOf q := by
  induction l generalizing s with
  | nil => rfl
  | cons p l ih => rw [repaces_cons, ih, repace_paceOf]

theorem repaces_ctx (l : List Part) (q : Part) (s : State) :
    (repaces l s).ctx q = if q ∈ l then { s.ctx q with pace := s.paceOf q } else s.ctx q := by
  induction l generalizing s with
  | nil => rfl
  | cons p l ih =>
    rw [repaces_cons, ih, repace_paceOf, repace_ctx]
    by_cases e : p = q
    · subst e; simp
    · simp [e, Ne.symm e]

theorem repaces_slots {l : List Part} (q : Part) {s : State} (hl : l.Nodup) (h : s.isRoot = false) :
    (repaces l s).slots q =
      if q ∈ l then { s.slots q with pace := s.paceSlotAfter q (s.paceOf q) } else s.slots q := by
  induction l generalizing s with
  | nil => rfl
  | cons p l ih =>
    obtain ⟨hp, hl⟩ := List.nodup_cons.mp hl
    rw [repaces_cons, ih hl (by simpa using h), repace_paceOf, repace_slots h]
    by_cases e : p = q
    · subst e; simp [hp]
    · simp [e, Ne.symm e, State.paceSlotAfter, repace_ctx, repace_slots h]

theorem repaces_rootRec {l : List Part} (q : Part) {s : State} (hl : l.Nodup) (h : s.isRoot = true) :
    (repaces l s).rootRec q =
      if q ∈ l then { s.rootRec q with slow := s.slowAfter q (s.paceOf q) } else s.rootRec q := by
  induction l generalizing s with
  | nil => rfl
  | cons p l ih =>
    obtain ⟨hp, hl⟩ := List.nodup_cons.mp hl
    rw [repaces_cons, ih hl (by simpa using h), repace_paceOf, repace_rootRec h]
    by_cases e : p = q
    · subst e; simp [hp]
    · simp [e, Ne.symm e, State.slowAfter, repace_ctx, repace_rootRec h]

theorem repaces_frame (l : List Part) (s : State) :
    ((repaces l s).setPse s.pse).setCf s.cf = s.setRc (repaces l s).rc ∧
    (repaces l s).cf = { s.cf with slots := (repaces l s).cf.slots } ∧
    (s.isRoot = false → (repaces l s).rc = s.rc) ∧ (s.isRoot = true → (repaces l s).cf = s.cf) := by
  induction l generalizing s with
  | nil => exact ⟨rfl, rfl, fun _ => rfl, fun _ => rfl⟩
  | cons p l ih =>
    obtain ⟨hf, hcf, hrc, hroot⟩ := repace_frame p s
    obtain ⟨hf', hcf', hrc', hroot'⟩ := ih (repace p s)
    rw [repace_isRoot] at hrc' hroot'
    rw [repaces_cons]
    refine ⟨?_, ?_, fun h => (hrc' h).trans (hrc h), fun h => (hroot' h).trans (hroot h)⟩
    · calc ((repaces l (repace p s)).setPse s.pse).setCf s.cf
          = ((((repaces l (repace p s)).setPse (repace p s).pse).setCf (repace p s).cf).setPse s.pse).setCf s.cf := rfl
        _ = (((repace p s).setPse s.pse).setCf s.cf).setRc (repaces l (repace p s)).rc := by rw [hf']; rfl
        _ = s.setRc (repaces l (repace p s)).rc := by rw [hf]; rfl
    · rw [hcf', hcf]

/-- PACE_SLOW, where the pace state of a partition of `l` is about to go from OK to SLOW (R84). -/
def State.slowEvents (s : State) (l : List Part) : List Event := if l.any s.slows then [.paceSlow] else []

theorem Recording.settlePaces {es : List Event} {cs : List (PortId × Fin 8)} {hs : List (Fin 3)} (l : List Part) :
    ∀ {s t : State}, l.Nodup → Recording es cs hs s t →
      Recording (s.slowEvents l ++ es) cs hs (repaces l s) (l.foldl (fun u p => Machine.settlePace p u) t) := by
  induction l generalizing es with
  | nil => exact fun _ h => h
  | cons p l ih =>
    intro s t hl h
    obtain ⟨hp, hl⟩ := List.nodup_cons.mp hl
    refine (ih hl (h.settlePace p)).congr (fun e => ?_) fun _ => Iff.rfl
    have hslows : ∀ q ∈ l, (repace p s).slows q = s.slows q := fun q hq => by
      have hne : p ≠ q := fun e => hp (e ▸ hq)
      simp [State.slows, repace_ctx, hne]
    have hany : l.any (repace p s).slows = l.any s.slows := by
      rw [Bool.eq_iff_iff, List.any_eq_true, List.any_eq_true]
      exact ⟨fun ⟨q, hq, hs⟩ => ⟨q, hq, hslows q hq ▸ hs⟩, fun ⟨q, hq, hs⟩ => ⟨q, hq, (hslows q hq).symm ▸ hs⟩⟩
    simp only [State.slowEvents, hany, List.any_cons]
    by_cases hp : s.slows p = true <;> by_cases ha : l.any s.slows = true <;> simp [hp, ha]

end Sys2Proof.Machine
end

section
/-! SUPPORT. The copies of a partition cell on the routed links (R45, R47, R51, R54): what the placing of one copy does, and
that the links one after another do what `State.copied`, `copyLosses` and `copyEvents` say. -/

namespace Sys2Proof.Machine
open Sys2Proof

/-! Two states that differ in contexts, egress queues and summary slots -/

/-- `t` is `s` but for contexts, egress queues and summary slots. -/
structure Beside (s t : State) : Prop where
  frame : (t.setPse s.pse).setCf s.cf = s
  stores : t.cf = { s.cf with egress := t.cf.egress, slots := t.cf.slots }

namespace Beside
variable {s t u : State}

theorem refl (s : State) : Beside s s := ⟨rfl, rfl⟩

theorem trans (h : Beside s t) (h' : Beside t u) : Beside s u where
  frame := by
    calc (u.setPse s.pse).setCf s.cf = (((u.setPse t.pse).setCf t.cf).setPse s.pse).setCf s.cf := rfl
      _ = s := by rw [h'.frame, h.frame]
  stores := by rw [h'.stores, h.stores]

theorem lp (h : Beside s t) : t.lp = s.lp := congrArg (fun u => u.lp) h.frame
theorem now (h : Beside s t) : t.now = s.now := congrArg (fun u => u.now) h.frame
theorem isRoot (h : Beside s t) : t.isRoot = s.isRoot := congrArg (fun u => u.isRoot) h.frame
theorem isUp (h : Beside s t) (x : PortId) : t.isUp x = s.isUp x := by
  cases x <;> simp only [State.isUp, State.port, h.lp]

theorem inMask (h : Beside s t) (p : Part) (n : Dn) : t.inMask p n = s.inMask p n := by
  have hr : t.cf.routes = s.cf.routes := by rw [h.stores]
  simp only [State.inMask, State.route, hr]

end Beside

/-! Paces that move one way -/

/-- `t` is `s` but for egress queues, and pace states that have moved to `d` where they have moved, with their PACE slots
(R84). -/
structure PacedToward (d : Bool) (s t : State) : Prop extends Beside s t where
  ctx : ∀ q, t.ctx q = { s.ctx q with pace := t.paceOf q }
  slots : ∀ q, t.slots q = { s.slots q with pace := s.paceSlotAfter q (t.paceOf q) }
  toward : ∀ q, t.paceOf q = (s.ctx q).pace ∨ t.paceOf q = d

namespace PacedToward
variable {d : Bool} {s t u : State}

theorem refl (h : s.PaceFollows) : PacedToward d s s where
  toBeside := .refl s
  ctx q := by rw [← h q]
  slots q := by rw [State.paceSlotAfter, if_pos (.inl (h q).symm)]
  toward q := .inl (h q).symm

theorem paceFollows (h : PacedToward d s t) : t.PaceFollows := fun q => by rw [h.ctx q]

theorem trans (h : PacedToward d s t) (h' : PacedToward d t u) : PacedToward d s u where
  toBeside := h.toBeside.trans h'.toBeside
  ctx q := by rw [h'.ctx q, h.ctx q]
  slots q := by
    have hto := h'.toward q
    have hfrom := h.toward q
    rw [h.ctx q] at hto
    rw [h'.slots q, h.slots q]
    simp only [State.paceSlotAfter, h.slots q, h.ctx q]
    by_cases hi : (s.ctx q).state = .idle
    · simp [hi]
    · by_cases hu : u.paceOf q = t.paceOf q
      · simp [hu]
      · have hud : u.paceOf q = d := hto.resolve_left hu
        have htd : t.paceOf q = (s.ctx q).pace := hfrom.resolve_right fun e => hu (hud.trans e.symm)
        simp [hi, hu, ← htd]
  toward q := by
    have hto := h'.toward q
    rw [h.ctx q] at hto
    rcases hto with e | e
    · exact e ▸ h.toward q
    · exact .inr e

end PacedToward

/-- PACE_SLOW is raised on the way exactly where it is so between the ends, for paces that move one way. -/
theorem mem_paceEvents_trans {d : Bool} {s t u : State} (h : PacedToward d s t) (h' : PacedToward d t u) (e : Event) :
    e ∈ paceEvents s u ↔ e ∈ paceEvents t u ∨ e ∈ paceEvents s t := by
  have hmem : ∀ a b : State, e ∈ paceEvents a b ↔
      e = .paceSlow ∧ ∃ q ∈ allParts, (a.ctx q).pace = false ∧ (b.ctx q).pace = true := fun a b => by
    unfold paceEvents
    split <;> simp_all
  simp only [hmem]
  constructor
  · rintro ⟨he, q, hq, hs, hu⟩
    cases ht : (t.ctx q).pace
    exacts [.inl ⟨he, q, hq, ht, hu⟩, .inr ⟨he, q, hq, hs, ht⟩]
  · have hfirst : ∀ q, (t.ctx q).pace = (s.ctx q).pace ∨ (t.ctx q).pace = d := fun q => by
      rw [h.paceFollows q]
      exact h.toward q
    have hthen : ∀ q, (u.ctx q).pace = (t.ctx q).pace ∨ (u.ctx q).pace = d := fun q => by
      rw [h'.paceFollows q]
      exact h'.toward q
    rintro (⟨he, q, hq, ht, hu⟩ | ⟨he, q, hq, hs, ht⟩)
    · have hd : d = true := (hu.symm.trans ((hthen q).resolve_left (by simp [ht, hu]))).symm
      have hs : (s.ctx q).pace = false := ((hfirst q).resolve_right (by simp [ht, hd])).symm.trans ht
      exact ⟨he, q, hq, hs, hu⟩
    · have hd : d = true := (ht.symm.trans ((hfirst q).resolve_left (by simp [hs, ht]))).symm
      have hu : (u.ctx q).pace = true := (hthen q).elim (·.trans ht) (·.trans hd)
      exact ⟨he, q, hq, hs, hu⟩

theorem mem_allParts (p : Part) : p ∈ allParts := by revert p; decide

/-! A change of one link's queues -/

/-- The sources of a pace state in two states of which one has every backed-up report of the other (Table 4-5). -/
theorem paceOf_mono {s t : State} {q : Part} (hc : t.ctx q = s.ctx q) (hr : t.route q = s.route q)
    (hb : ∀ n, (s.egress n).backedUp = true → (t.egress n).backedUp = true) (h : s.paceOf q = true) :
    t.paceOf q = true := by
  simp only [State.paceOf, State.inMask, hc, hr, Bool.or_eq_true, List.any_eq_true, Bool.and_eq_true] at h ⊢
  rcases h with h | ⟨n, hn, h | ⟨hm, hbn⟩⟩
  exacts [.inl h, .inr ⟨n, hn, .inl h⟩, .inr ⟨n, hn, .inr ⟨hm, hb n hbn⟩⟩]

/-- A link's backed-up report that moves to `d` moves pace states to `d` alone. -/
theorem paceOf_setEgress {d : Bool} {s : State} {n : Dn} {g : Egress} (q : Part)
    (hg : g.backedUp = (s.egress n).backedUp ∨ g.backedUp = d) :
    (s.setEgress n g).paceOf q = s.paceOf q ∨ (s.setEgress n g).paceOf q = d := by
  have hread : ∀ k, (s.setEgress n g).egress k = if n = k then g else s.egress k := fun k => by
    by_cases e : n = k
    · subst e; simp
    · simp [e]
  rcases hg with hg | hg
  · have hup := paceOf_mono (s := s) (t := s.setEgress n g) (q := q) rfl rfl fun k => by
      rw [hread]; split
      · next e => subst e; simp [hg]
      · exact id
    have hdown := paceOf_mono (s := s.setEgress n g) (t := s) (q := q) rfl rfl fun k => by
      rw [hread]; split
      · next e => subst e; simp [hg]
      · exact id
    exact .inl (Bool.eq_iff_iff.mpr ⟨hdown, hup⟩)
  · cases d with
    | true =>
      have hup := paceOf_mono (s := s) (t := s.setEgress n g) (q := q) rfl rfl fun k => by
        rw [hread]; split
        · simp [hg]
        · exact id
      cases h : s.paceOf q
      · exact (Bool.eq_false_or_eq_true _).symm.imp_right id
      · exact .inr (hup h)
    | false =>
      have hdown := paceOf_mono (s := s.setEgress n g) (t := s) (q := q) rfl rfl fun k => by
        rw [hread]; split
        · simp [hg]
        · exact id
      cases h : (s.setEgress n g).paceOf q
      · exact .inr rfl
      · exact .inl (hdown h).symm

theorem beside_setEgress (s : State) (n : Dn) (g : Egress) : Beside s (s.setEgress n g) := ⟨rfl, rfl⟩

theorem beside_repaces {s : State} (hr : s.isRoot = false) (l : List Part) : Beside s (repaces l s) := by
  obtain ⟨hf, hcf, hrc, -⟩ := repaces_frame l s
  exact ⟨by rw [hf, hrc hr]; rfl, by rw [hcf]⟩

/-- Queues whose backed-up report has not moved leave every pace state as it follows. -/
theorem pacedToward_setEgress {d : Bool} {s : State} {n : Dn} {g : Egress} (hp : s.PaceFollows)
    (hg : g.backedUp = (s.egress n).backedUp) : PacedToward d s (s.setEgress n g) where
  toBeside := beside_setEgress s n g
  ctx q := by
    have he : (s.setEgress n g).paceOf q = s.paceOf q := (paceOf_setEgress (d := s.paceOf q) q (.inl hg)).elim id id
    rw [he, ← hp q]; rfl
  slots q := by
    have he : (s.setEgress n g).paceOf q = s.paceOf q := (paceOf_setEgress (d := s.paceOf q) q (.inl hg)).elim id id
    rw [he, State.paceSlotAfter, if_pos (.inl (hp q).symm)]; rfl
  toward q := by
    rw [hp q]
    exact paceOf_setEgress q (.inl hg)

/-- Queues whose backed-up report moves to `d`, every pace state being recomputed after. -/
theorem pacedToward_repaces {d : Bool} {s : State} {n : Dn} {g : Egress} (hp : s.PaceFollows) (hr : s.isRoot = false)
    (hg : g.backedUp = (s.egress n).backedUp ∨ g.backedUp = d) :
    PacedToward d s (repaces allParts (s.setEgress n g)) where
  toBeside := (beside_setEgress s n g).trans (beside_repaces (s := s.setEgress n g) hr allParts)
  ctx q := by rw [repaces_ctx, if_pos (mem_allParts q), repaces_paceOf]; rfl
  slots q := by rw [repaces_slots (s := s.setEgress n g) q (by decide) hr, if_pos (mem_allParts q), repaces_paceOf]; rfl
  toward q := by
    rw [repaces_paceOf, hp q]
    exact paceOf_setEgress q hg

theorem repaces_egress (l : List Part) (s : State) (k : Dn) : (repaces l s).egress k = s.egress k := by
  have he : (repaces l s).cf.egress = s.cf.egress := by rw [(repaces_frame l s).2.1]
  rw [State.egress, he, State.egress]

theorem slowEvents_eq (s : State) : s.slowEvents allParts = paceEvents s (repaces allParts s) := by
  have hslows : s.slows = fun p => !(s.ctx p).pace && ((repaces allParts s).ctx p).pace := funext fun p => by
    rw [repaces_ctx, if_pos (mem_allParts p)]; rfl
  rw [State.slowEvents, hslows]
  rfl


/-! One copy -/

theorem LogBlind.setEgressOf {n : Dn} (q : Egress → Egress) : LogBlind fun s => s.setEgress n (q (s.egress n)) :=
  LogBlind.of_commutes (fun _ => rfl) (fun _ => rfl) (fun _ => rfl) (fun _ => rfl) fun _ => rfl

section
variable {es : List Event} {cs : List (PortId × Fin 8)} {hs : List (Fin 3)} {s t : State}

theorem Recording.dropCell (h : Recording es cs hs s t) {n : Dn} (hn : (.d n, kCellDrop) ∉ cs) :
    Recording (.cellLoss :: es) ((.d n, kCellDrop) :: cs) hs s (Machine.dropCell n t) := (h.bump hn).raise .cellLoss

/-- The queues of a link are rewritten with their backed-up report, and every pace state recomputed (R54, R84). -/
theorem Recording.setQueues (h : Recording es cs hs s t) {n : Dn} (q : Egress → Egress) :
    Recording (paceEvents s (repaces allParts (s.setEgress n (q (s.egress n)))) ++ es) cs hs
      (repaces allParts (s.setEgress n (q (s.egress n))))
      (Machine.settlePaces (t.setEgress n (q (t.egress n)))) := by
  have hset := Recording.settlePaces allParts (by decide) (h.map (LogBlind.setEgressOf (n := n) q))
  rw [slowEvents_eq] at hset
  exact hset

theorem Recording.inMask_eq (h : Recording es cs hs s t) (p : Part) (n : Dn) : t.inMask p n = s.inMask p n :=
  congrArg (fun u => u.inMask p n) (show t.sansLog = s.sansLog from h.sansLog_eq)

end

/-- What relates the states before and after copies are placed, and lists what is raised beside CELL_LOSS. -/
structure CopyLaw (Law : State → State → Prop) (ev : State → State → List Event) : Prop where
  beside : ∀ {s t}, Law s t → Beside s t
  right : ∀ {s t}, Law s t → Law t t
  trans : ∀ {s t u}, Law s t → Law t u → Law s u
  ev_self : ∀ s, ev s s = []
  ev_trans : ∀ {s t u}, Law s t → Law t u → ∀ e, e ∈ ev s u ↔ e ∈ ev t u ∨ e ∈ ev s t

/-- The placing of the copy of cell `c` of `p` on link `n` at RP `now` (R45, R51): what it records, and the queues it
leaves. -/
def CopyPlaced (Law : State → State → Prop) (ev : State → State → List Event) (c : Instr) (p : Part) (now : Nat)
    (place : Dn → State → State) : Prop :=
  ∀ (n : Dn) {es : List Event} {cs : List (PortId × Fin 8)} {hs : List (Fin 3)} {s t : State},
    Law s s → s.isRoot = false → s.now = now → Recording es cs hs s t → (.d n, kCellDrop) ∉ cs →
    (findsFull c (s.egress n) = true → Recording (.cellLoss :: es) ((.d n, kCellDrop) :: cs) hs s (place n t)) ∧
    (findsFull c (s.egress n) = false →
      ∃ u, Law s u ∧ u.egress n = (s.egress n).given c p now ∧ (∀ k, n ≠ k → u.egress k = s.egress k) ∧
        Recording (ev s u ++ es) cs hs u (place n t))

theorem pacedLaw (d : Bool) : CopyLaw (PacedToward d) paceEvents where
  beside h := h.toBeside
  right h := .refl h.paceFollows
  trans h h' := h.trans h'
  ev_self s := by simp [paceEvents]
  ev_trans h h' e := mem_paceEvents_trans h h' e

/-- `t` is `s` but for egress queues. -/
structure OnlyQueues (s t : State) : Prop extends Beside s t where
  pse : t.pse = s.pse
  slots : t.cf.slots = s.cf.slots

theorem onlyQueues_law : CopyLaw OnlyQueues fun _ _ => [] where
  beside h := h.toBeside
  right _ := ⟨.refl _, rfl, rfl⟩
  trans h h' := ⟨h.toBeside.trans h'.toBeside, h'.pse.trans h.pse, h'.slots.trans h.slots⟩
  ev_self _ := rfl
  ev_trans _ _ e := by simp

/-- A STEP copy joins the step queue (R51, R54). -/
theorem placeStep_placed (x : PortId) (p : Part) (n age now : Nat) :
    CopyPlaced (PacedToward true) paceEvents (.step x p n age) p now fun k => placeStep k ⟨p, n, age, now⟩ := by
  intro k es cs hs s t hlaw hr hnow h hk
  have hfull : findsFull (.step x p n age) (s.egress k) = decide (16 ≤ (s.egress k).steps.length) := rfl
  unfold placeStep
  dsimp only
  rw [h.egress_eq, hfull, decide_eq_true_eq, decide_eq_false_iff_not]
  refine ⟨fun hf => ?_, fun hf => ?_⟩
  · rw [if_neg (by omega)]
    exact h.dropCell hk
  · rw [if_pos (by omega)]
    refine ⟨_, pacedToward_repaces (n := k) (g := (s.egress k).withStep ⟨p, n, age, now⟩) hlaw.paceFollows hr ?_, ?_, ?_,
      h.setQueues fun g => g.withStep ⟨p, n, age, now⟩⟩
    · cases hb : (s.egress k).backedUp
      · simp [Egress.withStep, hb]
        omega
      · simp [Egress.withStep, hb]
    · rw [repaces_egress, State.egress_setEgress_self]; rfl
    · intro j hj
      rw [repaces_egress, State.egress_setEgress_ne _ _ _ _ hj]

/-- Whether a run-control cell removes the waiting steps of its partition (R47). -/
def removes : Run → Bool
  | .start _ | .abort => true
  | .freeze .. | .resume _ | .swap _ => false

/-- A link's queues with a run-control cell of `p` at the tail of the urgent queue. -/
def Egress.withUrgent (g : Egress) (p : Part) (r : Run) : Egress := { g with urgent := g.urgent ++ [⟨p, r⟩] }

/-- A link's queues without the waiting steps of `p` (R47, R54). -/
def Egress.without (g : Egress) (p : Part) : Egress :=
  { g with
    steps := g.steps.filter fun c => c.part != p
    backedUp := g.backedUp && decide (4 < (g.steps.filter fun c => c.part != p).length) }

theorem placeRun_eq (n : Dn) (p : Part) (r : Run) (s : State) : placeRun n p r s =
    if (s.egress n).urgent.length < 8 then
      if removes r then removeSteps n p (s.setEgress n ((s.egress n).withUrgent p r))
      else s.setEgress n ((s.egress n).withUrgent p r)
    else dropCell n s := by cases r <;> rfl

theorem Egress.withRun_of_stay (g : Egress) (p : Part) {r : Run} (hr : removes r = false) :
    g.withRun p r = g.withUrgent p r := by
  cases r <;> simp_all [removes, Egress.withRun, Egress.keptSteps, Egress.withUrgent]

/-- A START or ABORT that finds no waiting step of its partition leaves the step queue and its report. -/
theorem Egress.withRun_of_none (g : Egress) (p : Part) {r : Run} (hr : removes r = true)
    (hl : (g.steps.filter fun c => c.part != p).length = g.steps.length) : g.withRun p r = g.withUrgent p r := by
  have hf : (g.steps.filter fun c => c.part != p) = g.steps := List.filter_sublist.eq_of_length hl
  cases r <;> simp_all [removes, Egress.withRun, Egress.keptSteps, Egress.withUrgent]

theorem Egress.withRun_of_some (g : Egress) (p : Part) {r : Run} (hr : removes r = true)
    (hl : (g.steps.filter fun c => c.part != p).length ≠ g.steps.length) :
    g.withRun p r = (g.withUrgent p r).without p := by
  have hkept : g.keptSteps p r = g.steps.filter fun c => c.part != p := by
    cases r with
    | start | abort => rfl
    | freeze | resume | swap => cases hr
  simp only [Egress.withRun, hkept, decide_eq_false hl, Bool.false_or]
  rfl

/-- The waiting steps of `p` go; where none waited, nothing moves (R47). -/
theorem removeSteps_setEgress (n : Dn) (g : Egress) (p : Part) (s : State) :
    removeSteps n p (s.setEgress n g) =
      if (g.steps.filter fun c => c.part != p).length = g.steps.length then s.setEgress n g
      else Machine.settlePaces (s.setEgress n (g.without p)) := by
  unfold removeSteps shrinkSteps Egress.without
  dsimp only
  rw [State.egress_setEgress_self]
  simp only [State.setEgress, State.setCf, upd_upd]

theorem not_urgentFull_iff (g : Egress) : g.urgentFull = false ↔ g.urgent.length < 8 := by simp [Egress.urgentFull]

section
variable {c : Instr} {p : Part} {r : Run} {now : Nat}

/-- A run-control copy that removes no steps joins the urgent queue (R51). -/
theorem placeRun_stays (hf : ∀ g, findsFull c g = g.urgentFull) (hg : ∀ g : Egress, g.given c p now = g.withRun p r)
    (hr : removes r = false) : CopyPlaced OnlyQueues (fun _ _ => []) c p now fun k => placeRun k p r := by
  intro k es cs hs s t _ _ _ h hk
  dsimp only
  rw [hf, placeRun_eq, h.egress_eq, hr, not_urgentFull_iff]
  refine ⟨fun hfull => ?_, fun hroom => ?_⟩
  · rw [if_neg (by rw [← not_urgentFull_iff, hfull]; decide)]
    exact h.dropCell hk
  · rw [if_pos hroom, hg, Egress.withRun_of_stay _ _ hr]
    refine ⟨_, ⟨beside_setEgress _ k _, rfl, rfl⟩, State.egress_setEgress_self _ _ _,
      fun j => State.egress_setEgress_ne _ _ _ _, ?_⟩
    have hset := h.map (LogBlind.setEgressOf (n := k) fun g => g.withUrgent p r)
    rw [h.egress_eq] at hset
    exact hset

/-- What leaves the paces alone as they follow leaves them so whichever way they may move. -/
theorem CopyPlaced.paced {place : Dn → State → State} (d : Bool)
    (h : CopyPlaced OnlyQueues (fun _ _ => []) c p now place)
    (hb : ∀ g : Egress, (g.given c p now).backedUp = g.backedUp) : CopyPlaced (PacedToward d) paceEvents c p now place := by
  intro k es cs hs s t hlaw hr hnow hrec hk
  obtain ⟨hfull, hroom⟩ := h k (onlyQueues_law.right (s := s) ⟨.refl s, rfl, rfl⟩) hr hnow hrec hk
  refine ⟨hfull, fun hf => ?_⟩
  obtain ⟨u, hu, he, hothers, hrec⟩ := hroom hf
  have hset : u = s.setEgress k ((s.egress k).given c p now) := by
    have hegress : u.cf.egress = upd s.cf.egress k ((s.egress k).given c p now) := bank_ext fun j => by
      rw [look_upd]
      split
      · next e => subst e; exact he
      · next e => exact hothers j e
    have hcf : u.cf = { s.cf with egress := upd s.cf.egress k ((s.egress k).given c p now) } := by
      rw [hu.stores, hegress, hu.slots]
    calc u = ((((u.setPse s.pse).setCf s.cf).setPse u.pse).setCf u.cf) := rfl
      _ = s.setEgress k ((s.egress k).given c p now) := by rw [hu.frame, hu.pse, hcf]; rfl
  have hpaced : PacedToward d s u := hset ▸ pacedToward_setEgress hlaw.paceFollows (hb _)
  refine ⟨u, hpaced, he, hothers, ?_⟩
  have hnone : paceEvents s u = [] := by
    have hsame : u.pse = s.pse := hu.pse
    simp [paceEvents, State.ctx, hsame]
  rw [hnone]
  exact hrec

/-- The copy of a START or ABORT joins the urgent queue, and the waiting steps of its partition go (R47, R51, R54). -/
theorem placeRun_removes (hf : ∀ g, findsFull c g = g.urgentFull)
    (hg : ∀ g : Egress, g.given c p now = g.withRun p r) (hr : removes r = true) :
    CopyPlaced (PacedToward false) paceEvents c p now fun k => placeRun k p r := by
  intro k es cs hs s t hlaw hroot _ h hk
  dsimp only
  rw [hf, placeRun_eq, h.egress_eq, hr, not_urgentFull_iff]
  refine ⟨fun hfull => ?_, fun hroom => ?_⟩
  · rw [if_neg (by rw [← not_urgentFull_iff, hfull]; decide)]
    exact h.dropCell hk
  · have hset := h.map (LogBlind.setEgressOf (n := k) fun g => g.withUrgent p r)
    rw [h.egress_eq] at hset
    rw [if_pos hroom, if_pos rfl, hg]
    rw [removeSteps_setEgress, show ((s.egress k).withUrgent p r).steps = (s.egress k).steps from rfl]
    by_cases hl : ((s.egress k).steps.filter fun c => c.part != p).length = (s.egress k).steps.length
    · have hlaw' : PacedToward false s (s.setEgress k ((s.egress k).withUrgent p r)) :=
        pacedToward_setEgress hlaw.paceFollows rfl
      refine ⟨_, hlaw', ?_, fun j => State.egress_setEgress_ne _ _ _ _, ?_⟩
      · rw [State.egress_setEgress_self, Egress.withRun_of_none _ _ hr hl]
      · have hnone : paceEvents s (s.setEgress k ((s.egress k).withUrgent p r)) = [] := by simp [paceEvents]
        rw [hnone, if_pos hl]
        exact hset
    · have hqueues := h.setQueues (n := k) fun g => (g.withUrgent p r).without p
      rw [h.egress_eq] at hqueues
      refine ⟨_, pacedToward_repaces (n := k) (g := ((s.egress k).withUrgent p r).without p) hlaw.paceFollows hroot ?_,
        ?_, fun j hj => ?_, ?_⟩
      · simp only [Egress.without, Egress.withUrgent]
        cases (s.egress k).backedUp <;> simp
      · rw [repaces_egress, State.egress_setEgress_self, Egress.withRun_of_some _ _ hr hl]
      · rw [repaces_egress, State.egress_setEgress_ne _ _ _ _ hj]
      · rw [if_neg hl]
        exact hqueues

end

/-! All copies -/

/-- The links of `l` that the mask of `p` names and that are not UP. -/
def State.deadOn (s : State) (p : Part) (l : List Dn) : List Dn := l.filter fun n => s.inMask p n && !s.isUp (.d n)

/-- The links of `l` that the mask of `p` names and that are UP, whose queues `full` finds full. -/
def State.fullOn (s : State) (p : Part) (full : Egress → Bool) (l : List Dn) : List Dn :=
  l.filter fun n => s.inMask p n && s.isUp (.d n) && full (s.egress n)

/-- The counters that the copies on the links of `l` increment (R45, R51). -/
def State.lossesOn (s : State) (p : Part) (full : Egress → Bool) (l : List Dn) : List (PortId × Fin 8) :=
  (s.deadOn p l).map (fun n => (PortId.d n, kDeadRoute)) ++ (s.fullOn p full l).map fun n => (PortId.d n, kCellDrop)

/-- CELL_LOSS, where a copy on a link of `l` finds its queue full (R51). -/
def State.lossEventsOn (s : State) (p : Part) (full : Egress → Bool) (l : List Dn) : List Event :=
  if s.fullOn p full l = [] then [] else [.cellLoss]

theorem copied_eq (s : State) (c : Instr) (p : Part) (n : Dn) :
    s.copied c p n = if s.inMask p n && s.isUp (.d n) then (s.egress n).offered c p s.now else s.egress n := rfl

/-- A partition cell is copied to the routed links one after another (R45). -/
theorem Recording.copyDown {Law : State → State → Prop} {ev : State → State → List Event} (law : CopyLaw Law ev)
    {c : Instr} {p : Part} {place : Dn → State → State} {es : List Event} {hs : List (Fin 3)} {s t : State}
    (hplace : CopyPlaced Law ev c p s.now place) (hlaw : Law s s) (hroot : s.isRoot = false)
    (h : Recording es [] hs s t) :
    ∃ u, Law s u ∧ (∀ n, u.egress n = s.copied c p n) ∧
      Recording (ev s u ++ s.copyEvents p (findsFull c) ++ es) (s.copyLosses p (findsFull c)) hs u
        (Machine.copyDown p place t) := by
  have hlinks : ∀ l : List Dn, l.Nodup →
      ∃ u, Law s u ∧ (∀ n, u.egress n = if n ∈ l then s.copied c p n else s.egress n) ∧
        Recording (ev s u ++ s.lossEventsOn p (findsFull c) l ++ es) (s.lossesOn p (findsFull c) l) hs u
          (l.foldl (fun v n =>
            if v.inMask p n then
              if v.isUp (PortId.d n) then place n v else Machine.bump (PortId.d n) kDeadRoute v
            else v) t) := by
    intro l
    induction l using List.reverseRecOn with
    | nil =>
      exact fun _ => ⟨s, hlaw, fun _ => rfl, by simpa [law.ev_self, State.lossEventsOn, State.lossesOn, State.fullOn,
        State.deadOn] using h⟩
    | append_singleton l n ih =>
      intro hl
      obtain ⟨hnodup, -, hdisj⟩ := List.nodup_append.mp hl
      have hn : n ∉ l := fun hm => hdisj n hm n (List.mem_singleton.mpr rfl) rfl
      obtain ⟨u, hu, hegress, hrec⟩ := ih hnodup
      have hbeside := law.beside hu
      have hqueue : u.egress n = s.egress n := by rw [hegress, if_neg hn]
      have hothers : ∀ v : State, (∀ k, n ≠ k → v.egress k = u.egress k) → v.egress n = s.copied c p n →
          ∀ k, v.egress k = if k ∈ l ++ [n] then s.copied c p k else s.egress k := fun v hk hv k => by
        by_cases e : n = k
        · subst e; simp [hv]
        · rw [hk k e, hegress]; simp [Ne.symm e]
      rw [List.foldl_append, List.foldl_cons, List.foldl_nil, hrec.inMask_eq, hrec.isUp_eq, hbeside.inMask,
        hbeside.isUp]
      cases hm : s.inMask p n
      · refine ⟨u, hu, hothers u (fun _ _ => rfl) (by rw [hqueue, copied_eq]; simp [hm]), ?_⟩
        simpa [State.lossEventsOn, State.lossesOn, State.fullOn, State.deadOn, hm] using hrec
      · cases hup : s.isUp (.d n)
        · refine ⟨u, hu, hothers u (fun _ _ => rfl) (by rw [hqueue, copied_eq]; simp [hup]), ?_⟩
          have hfree : (PortId.d n, kDeadRoute) ∉ s.lossesOn p (findsFull c) l := by
            simp [State.lossesOn, State.deadOn, State.fullOn, hn]
          refine (hrec.bump hfree).congr (fun e => ?_) fun x => ?_
          · simp [State.lossEventsOn, State.fullOn, hup]
          · simp [State.lossesOn, State.deadOn, State.fullOn, hm, hup, or_left_comm]
        · have hfree : (PortId.d n, kCellDrop) ∉ s.lossesOn p (findsFull c) l := by
            simp [State.lossesOn, State.deadOn, State.fullOn, hn]
          obtain ⟨hfull, hroom⟩ := hplace n (law.right hu) (hbeside.isRoot.trans hroot) hbeside.now hrec hfree
          rw [hqueue] at hfull hroom
          cases hf : findsFull c (s.egress n)
          · obtain ⟨v, hv, hgiven, hrest, hrec'⟩ := hroom hf
            refine ⟨v, law.trans hu hv, hothers v hrest ?_, ?_⟩
            · rw [hgiven, copied_eq]; simp [hm, hup, Egress.offered, hf]
            · refine hrec'.congr (fun e => ?_) fun x => ?_
              · simp [law.ev_trans hu hv, State.lossEventsOn, State.fullOn, hf, or_assoc]
              · simp [State.lossesOn, State.deadOn, State.fullOn, hup, hf]
          · refine ⟨u, hu, hothers u (fun _ _ => rfl) ?_, ?_⟩
            · rw [hqueue, copied_eq]; simp [hm, hup, Egress.offered, hf]
            · refine (hfull hf).congr (fun e => ?_) fun x => ?_
              · by_cases he : e = .cellLoss <;> simp [State.lossEventsOn, State.fullOn, hm, hup, hf, he]
              · simp [State.lossesOn, State.deadOn, State.fullOn, hm, hup, hf, or_comm, or_left_comm]
  obtain ⟨u, hu, hegress, hrec⟩ := hlinks allLinks (by decide)
  exact ⟨u, hu, fun n => by rw [hegress, if_pos (mem_allLinks n)], hrec⟩

end Sys2Proof.Machine
end

section
/-! SUPPORT. The run cells of a child in service (R45): the row's effect as what its context takes and then its copies, and
what its settling leaves; with the statements about FREEZE, RESUME, SWAP and stopped contexts. -/

namespace Sys2Proof.Machine
open Sys2Proof

/-! The run cells of a child -/

/-- The placing of the copy of a run cell of `p` on a link (R51). -/
def placeCell (c : Instr) (p : Part) (now : Nat) : Dn → State → State :=
  match c with
  | .step _ _ n age => fun k => placeStep k ⟨p, n, age, now⟩
  | .start _ _ e => fun k => placeRun k p (.start e)
  | .freeze _ _ f causes short => fun k => placeRun k p (.freeze f causes short)
  | .resume _ _ r => fun k => placeRun k p (.resume r)
  | .abort .. => fun k => placeRun k p .abort
  | .swap _ _ w => fun k => placeRun k p (.swap w)
  | _ => fun _ => id

/-- What a run cell of `p` does before its copies are placed (R45). -/
def takeCell (c : Instr) (p : Part) : State → State :=
  match c with
  | .step _ _ n age => stepCtx p n age
  | .start _ _ e => startCtx p e
  | .freeze _ _ f causes short => freezeCtx p f causes short
  | .resume _ _ r => resumeCtx p r
  | .abort .. => abortCtx p
  | .swap _ _ w => takeSwap p w
  | _ => id

/-- The rows that are run cells at a child, one by one. -/
theorem runCell_cases {c : Instr} {p : Part} (hc : c.runCell = some p) :
    (∃ n age, c = .step .u p n age) ∨ (∃ e, c = .start .u p e) ∨ (∃ f causes short, c = .freeze .u p f causes short) ∨
      (∃ r, c = .resume .u p r) ∨ c = .abort .u p ∨ ∃ w, c = .swap .u p w := by
  unfold Instr.runCell at hc
  split at hc <;> cases hc <;> simp

/-- A run cell at a child in service is taken by the hub that heard it, and copied (R45). -/
theorem exec_runCell {c : Instr} {p : Part} {s : State} (hc : c.runCell = some p) (hs : s.InService) :
    exec c s = .next (settle (copyDown p (placeCell c p s.now) (takeCell c p (s.heard .u)))) := by
  obtain ⟨hready, hroot, hup⟩ := hs
  have hrow : ∀ {k : Kind} (act : State → State),
      k ∈ [Kind.step, .start, .freeze, .resume, .abort, .swap] →
      event (receive .u k act) s = .next (settle (act (s.heard .u))) := fun {k} act hk => by
    have hact : receive .u k act s = act (s.heard .u) := by
      refine receive_delivered _ (aligned_iff.mpr (.inr (.inr hup))) ?_ ?_
      · revert hk; cases k <;> simp [State.conflicts, hroot, Kind.direction]
      · revert hk; cases k <;> simp [State.delivers, hup, hroot]
    rw [event_of_ready _ hready, hact]
  rcases runCell_cases hc with ⟨n, age, rfl⟩ | ⟨e, rfl⟩ | ⟨f, causes, short, rfl⟩ | ⟨r, rfl⟩ | rfl | ⟨w, rfl⟩
  · exact hrow (deliverStep p n age) (by decide)
  · exact hrow (deliverRun p (.start e)) (by decide)
  · exact hrow (deliverRun p (.freeze f causes short)) (by decide)
  · exact hrow (deliverRun p (.resume r)) (by decide)
  · exact hrow (deliverRun p .abort) (by decide)
  · exact hrow (deliverRun p (.swap w)) (by decide)

/-- The copies of a FREEZE, RESUME or SWAP move queues alone. -/
theorem placeCell_stays {c : Instr} {p : Part} (hc : c.runCell = some p) (hb : c.begins = false)
    (hs : ∀ n age, c ≠ .step .u p n age) (now : Nat) :
    CopyPlaced OnlyQueues (fun _ _ => []) c p now (placeCell c p now) := by
  rcases runCell_cases hc with ⟨n, age, rfl⟩ | ⟨e, rfl⟩ | ⟨f, causes, short, rfl⟩ | ⟨r, rfl⟩ | rfl | ⟨w, rfl⟩
  · exact absurd rfl (hs n age)
  · cases hb
  · exact placeRun_stays (r := .freeze f causes short) (fun _ => rfl) (fun _ => rfl) rfl
  · exact placeRun_stays (r := .resume r) (fun _ => rfl) (fun _ => rfl) rfl
  · cases hb
  · exact placeRun_stays (r := .swap w) (fun _ => rfl) (fun _ => rfl) rfl

/-- The copies of a run cell move pace states one way: to SLOW, or to OK where a run begins or ends (R47, R54). -/
theorem placeCell_paced {c : Instr} {p : Part} (hc : c.runCell = some p) (now : Nat) :
    CopyPlaced (PacedToward !c.begins) paceEvents c p now (placeCell c p now) := by
  have hstays : ∀ {c : Instr}, c.runCell = some p → c.begins = false → (∀ n age, c ≠ .step .u p n age) →
      (∀ g : Egress, (g.given c p now).backedUp = g.backedUp) →
      CopyPlaced (PacedToward !c.begins) paceEvents c p now (placeCell c p now) :=
    fun hc hb hs hg => (placeCell_stays hc hb hs now).paced _ hg
  have hreport : ∀ (g : Egress) (r : Run), removes r = false → (g.withRun p r).backedUp = g.backedUp := fun g r hr => by
    rw [g.withRun_of_stay p hr]; rfl
  rcases runCell_cases hc with ⟨n, age, rfl⟩ | ⟨e, rfl⟩ | ⟨f, causes, short, rfl⟩ | ⟨r, rfl⟩ | rfl | ⟨w, rfl⟩
  · exact placeStep_placed .u p n age now
  · exact placeRun_removes (r := .start e) (fun _ => rfl) (fun _ => rfl) rfl
  · exact hstays rfl rfl (by simp) fun g => hreport g _ rfl
  · exact hstays rfl rfl (by simp) fun g => hreport g _ rfl
  · exact placeRun_removes (r := .abort) (fun _ => rfl) (fun _ => rfl) rfl
  · exact hstays rfl rfl (by simp) fun g => hreport g _ rfl

/-! Closing a run cell -/

/-- `t` is `s` but for contexts, board units, egress queues and summary slots. -/
structure BesideBoard (s t : State) : Prop where
  frame : ((((t.setPse s.pse).setCf s.cf).setDg s.dg).setTu s.tu).setHu s.hu = s
  stores : t.cf = { s.cf with egress := t.cf.egress, slots := t.cf.slots }

theorem Beside.board {s t : State} (h : Beside s t) : BesideBoard s t where
  frame := by rw [h.frame]; rfl
  stores := h.stores

namespace BesideBoard
variable {s t u : State}

theorem trans (h : BesideBoard s t) (h' : BesideBoard t u) : BesideBoard s u where
  frame := by
    have hs := h.frame
    rw [← h'.frame] at hs
    simpa only [State.setPse, State.setCf, State.setDg, State.setTu, State.setHu] using hs
  stores := by rw [h'.stores, h.stores]

theorem lp (h : BesideBoard s t) : t.lp = s.lp := congrArg (fun u => u.lp) h.frame
theorem ma (h : BesideBoard s t) : t.ma = s.ma := congrArg (fun u => u.ma) h.frame
theorem now (h : BesideBoard s t) : t.now = s.now := congrArg (fun u => u.now) h.frame
theorem isRoot (h : BesideBoard s t) : t.isRoot = s.isRoot := congrArg (fun u => u.isRoot) h.frame
theorem noteQ (h : BesideBoard s t) : t.cf.noteQ = s.cf.noteQ := by rw [h.stores]
theorem routes (h : BesideBoard s t) : t.cf.routes = s.cf.routes := by rw [h.stores]

theorem isUp (h : BesideBoard s t) (x : PortId) : t.isUp x = s.isUp x := by
  cases x <;> simp only [State.isUp, State.port, h.lp]

theorem inMask (h : BesideBoard s t) (p : Part) (n : Dn) : t.inMask p n = s.inMask p n := by
  simp only [State.inMask, State.route, h.routes]

end BesideBoard

/-- What is left of a command that has settled, its log apart. -/
structure SettledAs (u t : State) : Prop where
  sansLog : t.sansLog = u.sansLog

namespace SettledAs
variable {u t : State}

theorem pse (h : SettledAs u t) : t.pse = u.pse := congrArg (fun v => v.pse) (show t.sansLog = u.sansLog from h.sansLog)
theorem dg (h : SettledAs u t) : t.dg = u.dg := congrArg (fun v => v.dg) (show t.sansLog = u.sansLog from h.sansLog)
theorem tu (h : SettledAs u t) : t.tu = u.tu := congrArg (fun v => v.tu) (show t.sansLog = u.sansLog from h.sansLog)
theorem hu (h : SettledAs u t) : t.hu = u.hu := congrArg (fun v => v.hu) (show t.sansLog = u.sansLog from h.sansLog)
theorem cfSlots (h : SettledAs u t) : t.cf.slots = u.cf.slots :=
  congrArg (fun v => v.cf.slots) (show t.sansLog = u.sansLog from h.sansLog)
theorem egress (h : SettledAs u t) (n : Dn) : t.egress n = u.egress n :=
  congrArg (fun v => v.egress n) (show t.sansLog = u.sansLog from h.sansLog)
theorem paceOf (h : SettledAs u t) (p : Part) : t.paceOf p = u.paceOf p :=
  congrArg (fun v => v.paceOf p) (show t.sansLog = u.sansLog from h.sansLog)
theorem ctx (h : SettledAs u t) (p : Part) : t.ctx p = u.ctx p := by rw [State.ctx, h.pse, State.ctx]
theorem slots (h : SettledAs u t) (p : Part) : t.slots p = u.slots p := by rw [State.slots, h.cfSlots, State.slots]
theorem sameStores {s : State} (h : SettledAs u t) (hu : BesideBoard s u) : SameStores s t := by
  have hroutes : t.cf.routes = u.cf.routes := congrArg (fun v => v.cf.routes) (show t.sansLog = u.sansLog from h.sansLog)
  have hserved : t.cf.lastServed = u.cf.lastServed :=
    congrArg (fun v => v.cf.lastServed) (show t.sansLog = u.sansLog from h.sansLog)
  have hresp : t.cf.respQ = u.cf.respQ := congrArg (fun v => v.cf.respQ) (show t.sansLog = u.sansLog from h.sansLog)
  rw [SameStores, hroutes, hserved, hresp, hu.stores]
  exact ⟨rfl, rfl, rfl⟩

theorem sameOutsideRun {s : State} (h : SettledAs u t) (hu : Beside s u) : SameOutsideRun s t := by
  refine ⟨?_, h.sameStores hu.board⟩
  calc (t.sansLog.setPse s.pse).setCf s.cf = (u.sansLog.setPse s.pse).setCf s.cf := by rw [h.sansLog]
    _ = ((u.setPse s.pse).setCf s.cf).sansLog.setCf s.cf := rfl
    _ = s.sansLog.setCf s.cf := by rw [hu.frame]

theorem sameOutsideBoard {s : State} (h : SettledAs u t) (hu : BesideBoard s u) : SameOutsideBoard s t := by
  refine ⟨?_, h.sameStores hu⟩
  calc ((((t.sansLog.setPse s.pse).setCf s.cf).setDg s.dg).setTu s.tu).setHu s.hu
      = ((((u.sansLog.setPse s.pse).setCf s.cf).setDg s.dg).setTu s.tu).setHu s.hu := by rw [h.sansLog]
    _ = (((((u.setPse s.pse).setCf s.cf).setDg s.dg).setTu s.tu).setHu s.hu).sansLog.setCf s.cf := rfl
    _ = s.sansLog.setCf s.cf := by rw [hu.frame]

end SettledAs

/-- What is logged over a state that `h` leaves the log of is logged over `h`. -/
theorem Logged.of_besideBoard {es : List Event} {cs : List (PortId × Fin 8)} {hs : List (Fin 3)} {s u t : State}
    (h : Logged es cs hs u t) (hu : BesideBoard s u) : Logged es cs hs s t := by
  have hport : ∀ x, u.port x = s.port x := fun x => by cases x <;> simp only [State.port, hu.lp]
  simpa only [Logged, State.latched, State.hubCounter, State.counter, hu.ma, hport] using h

/-- A run cell at a child in service: what it does before its copies, then the copies, then its log. -/
theorem exec_runCell_copied {Law : State → State → Prop} {ev : State → State → List Event} (law : CopyLaw Law ev)
    {c : Instr} {p : Part} {s e : State} {es : List Event} {hs : List (Fin 3)} (hc : c.runCell = some p)
    (hs' : s.InService) (hplace : CopyPlaced Law ev c p s.now (placeCell c p s.now)) (hlaw : Law e e)
    (he : BesideBoard (s.heard .u) e) (hq : e.cf.egress = s.cf.egress)
    (hrec : Recording es [] hs e (takeCell c p (s.heard .u))) :
    ∃ t u, exec c s = .next t ∧ Law e u ∧ SettledAs u t ∧ BesideBoard (s.heard .u) u ∧
      (∀ n : Fin 6, t.egress n = s.copied c p n) ∧
      Logged (ev e u ++ s.copyEvents p (findsFull c) ++ es) (s.copyLosses p (findsFull c)) hs s t ∧
      OnlyEventNotes s t := by
  have hroot : e.isRoot = false := he.isRoot.trans (by simpa using hs'.2.1)
  have hnow : e.now = s.now := he.now.trans rfl
  have hup : ∀ n, e.isUp (.d n) = s.isUp (.d n) := fun n => (he.isUp _).trans (by simp)
  have hmask : ∀ n, e.inMask p n = s.inMask p n := fun n => (he.inMask p n).trans (heard_inMask _)
  have hegress : ∀ n, e.egress n = s.egress n := fun n => by rw [State.egress, hq, State.egress]
  rw [← hnow] at hplace
  obtain ⟨u, hu, hcopied, hrec⟩ := hrec.copyDown law hplace hlaw hroot
  have hbeside : BesideBoard (s.heard .u) u := he.trans (law.beside hu).board
  obtain ⟨hsame, hlogged, hnotes⟩ := hrec.settle
  have hfull : e.fullLinks p (findsFull c) = s.fullLinks p (findsFull c) := by
    simp only [State.fullLinks, hup, hmask, hegress]
  have hevents : e.copyEvents p (findsFull c) = s.copyEvents p (findsFull c) := by
    simp only [State.copyEvents, hfull]
  have hlosses : e.copyLosses p (findsFull c) = s.copyLosses p (findsFull c) := by
    simp only [State.copyLosses, State.deadLinks, hfull, hup, hmask]
  rw [hevents, hlosses] at hlogged
  refine ⟨_, u, hnow ▸ exec_runCell hc hs', hu, ⟨hsame⟩, hbeside, fun n => ?_, (hlogged.of_besideBoard hbeside).of_heard,
    ?_⟩
  · rw [SettledAs.egress ⟨hsame⟩ n, hcopied]
    simp only [copied_eq, hup, hmask, hegress, hnow]
  · simpa only [OnlyEventNotes, hbeside.noteQ, hbeside.ma, heard_cf, heard_ma] using hnotes


/-! Cells that leave the context alone -/

theorem Logged.of_mem {es es' : List Event} {cs : List (PortId × Fin 8)} {hs : List (Fin 3)} {s t : State}
    (h : Logged es cs hs s t) (he : ∀ e, e ∈ es' ↔ e ∈ es) : Logged es' cs hs s t := by
  simpa only [Logged, he] using h

theorem paceEvents_eq {s t e u : State} (he : ∀ q, (e.ctx q).pace = (s.ctx q).pace) (ht : ∀ q, t.ctx q = u.ctx q) :
    paceEvents s t = paceEvents e u := by simp only [paceEvents, he, ht]

@[simp] theorem heard_paceOf (x : PortId) (p : Part) (s : State) : (s.heard x).paceOf p = s.paceOf p := by
  simp only [State.paceOf, State.egress, heard_inMask, heard_ctx, heard_cf]

theorem heard_paceFollows {s : State} (x : PortId) (h : s.PaceFollows) : (s.heard x).PaceFollows := fun q => by
  rw [heard_ctx, heard_paceOf]
  exact h q

/-- A partition of which only the pace state may have moved since the cell was heard. -/
theorem PacedToward.onlyPaceMoves {d : Bool} {s e u t : State} (h : PacedToward d e u) (ht : SettledAs u t) {q : Part}
    (hc : e.ctx q = s.ctx q) (hq : e.slots q = s.slots q) : OnlyPaceMoves q s t := by
  rw [OnlyPaceMoves, ht.ctx, ht.slots, ht.paceOf, h.ctx, h.slots]
  simp only [State.paceSlotAfter, hc, hq, and_self]

/-- Settles O34: the cell leaves the context, and its copies move pace states one way. -/
theorem stoppedContextsOnlyForward : Obligations.StoppedContextsOnlyForward := by
  intro c p s hs hpace hc hb hst
  have htake : takeCell c p (s.heard .u) = s.heard .u := by
    rcases runCell_cases hc with ⟨n, age, rfl⟩ | ⟨e, rfl⟩ | ⟨f, causes, short, rfl⟩ | ⟨r, rfl⟩ | rfl | ⟨w, rfl⟩
    · rcases hst with hst | hst <;> simp [takeCell, stepCtx, heard_ctx, hst]
    · cases hb
    · rcases hst with hst | hst <;> simp [takeCell, freezeCtx, heard_ctx, hst]
    · rcases hst with hst | hst <;> simp [takeCell, resumeCtx, heard_ctx, hst]
    · cases hb
    · rcases hst with hst | hst <;> simp [takeCell, takeSwap, heard_ctx, hst]
  have hrec : Recording [] [] [] (s.heard .u) (takeCell c p (s.heard .u)) := by
    rw [htake]
    exact Recording.start (heard_settled hs.1.2)
  obtain ⟨t, u, hx, hu, ht, -, hcopied, hlog, hnotes⟩ := exec_runCell_copied (pacedLaw _) hc hs
    (placeCell_paced hc _) (.refl (heard_paceFollows .u hpace)) (Beside.refl _).board rfl hrec
  have honly : ∀ q, OnlyPaceMoves q s t := fun q => hu.onlyPaceMoves ht (heard_ctx _) (heard_slots _)
  refine ⟨t, hx, honly p, ⟨hcopied, fun q _ => honly q⟩, ht.sameOutsideRun hu.toBeside, ?_, hnotes⟩
  rw [paceEvents_eq (fun q => congrArg _ (heard_ctx .u)) ht.ctx]
  simpa using hlog

/-! FREEZE, RESUME and SWAP -/

/-- A context is rewritten from what it was. -/
theorem LogBlind.updateCtx (p : Part) (f : Context → Context) : LogBlind fun s => s.setCtx p (f (s.ctx p)) :=
  LogBlind.of_commutes (fun _ => rfl) (fun _ => rfl) (fun _ => rfl) (fun _ => rfl) fun _ => rfl

theorem Context.frozenAt_eq (c : Context) (f : Nat) (causes : Causes) (now : Nat) :
    c.frozenAt f causes now = c.stoppedAt f causes now := by
  have hpoint : c.lowered f = min f (c.freeze.getD f) := by
    unfold Context.lowered
    cases c.freeze <;> simp [min_comm]
  have hdone : ∀ g, c.executedBelow g = ((c.last.map fun l => l + 1).getD c.epoch == g) := fun g => by
    unfold Context.executedBelow
    cases c.last <;> simp [Bool.beq_comm]
  simp only [Context.frozenAt, Context.stoppedAt, ← hpoint, ← hdone]
  cases c.executedBelow (c.lowered f)
  · simp
  · by_cases hst : c.state = .frozen <;> simp [Context.toFrozen, hst]

theorem Context.resumed_eq (c : Context) : c.resumed = c.goesOn := by
  unfold Context.resumed Context.goesOn
  cases c.last <;> rfl

theorem inRun_iff {c : Context} :
    c.inRun = true ↔ c.state = .armed ∨ c.state = .running ∨ c.state = .freezing ∨ c.state = .frozen := by
  unfold Context.inRun
  cases c.state <;> simp

section
variable {p : Part} {s : State}

theorem freezeCtx_takes {f : Nat} (causes : Causes) (short : Bool) (hrun : (s.ctx p).inRun = true)
    (hf : (s.ctx p).expected ≤ f) : freezeCtx p f causes short s =
      let t := s.setCtx p ((s.ctx p).stoppedAt f causes s.now)
      if short then raise .leadShort t else t := by
  unfold freezeCtx
  rw [if_neg (by omega), Context.frozenAt_eq]
  rcases inRun_iff.mp hrun with h | h | h | h <;> rw [h]

theorem resumeCtx_takes {r : Nat} (hst : (s.ctx p).state = .freezing ∨ (s.ctx p).state = .frozen)
    (hr : (s.ctx p).freeze = some r) : resumeCtx p r s = s.setCtx p (s.ctx p).goesOn := by
  unfold resumeCtx
  rw [if_pos hr, Context.resumed_eq]
  rcases hst with h | h <;> rw [h]

theorem takeSwap_takes {w : Nat} (hrun : (s.ctx p).inRun = true) : takeSwap p w s =
    if (s.route p).isLocal then
      if s.refusesSwap p w then bumpHub 1 s else s.setDPart p { s.dpart p with swaps := (s.dpart p).swaps ++ [w] }
    else s := by
  unfold takeSwap
  cases (s.route p).isLocal
  · rfl
  · rcases inRun_iff.mp hrun with h | h | h | h <;> rw [h] <;> rfl

/-- A SWAP is refused below the expected step, at a full record, or not above the last swap step (R105). -/
theorem refusesSwap_eq (w : Nat) : s.refusesSwap p w =
    (decide (w < (s.ctx p).expected) || decide (4 ≤ (s.dpart p).swaps.length) ||
      !((s.dpart p).swaps.getLast?.all fun v => decide (v < w))) := by
  unfold State.refusesSwap
  cases (s.dpart p).swaps.getLast? with
  | none => rfl
  | some v => simp [← decide_not]

end

theorem Recording.bumpHub {es : List Event} {cs : List (PortId × Fin 8)} {hs : List (Fin 3)} {s t : State} {k : Fin 3}
    (h : Recording es cs hs s t) (hk : k ∉ hs) : Recording es cs (k :: hs) s (Machine.bumpHub k t) := by
  obtain ⟨hsame, ⟨hset, hkept, hother, hcount, hhub⟩, hnotes⟩ := h.same
  have hcounted : Recording es cs (k :: hs) s
      (t.setMa { t.ma with counters := upd t.ma.counters k (satSucc (t.hubCounter k)) }) := by
    refine ⟨⟨hsame, ⟨hset, hkept, hother, hcount, fun j => ?_⟩, hnotes⟩, h.events, h.quiet, h.noReport⟩
    by_cases e : k = j
    · subst e
      have hold := hhub k
      rw [if_neg hk] at hold
      rw [if_pos List.mem_cons_self, ← hold]
      exact look_upd_self _ _ _
    · have hold := hhub j
      simp only [List.mem_cons, Ne.symm e, false_or]
      exact (look_upd_ne _ _ _ _ e).trans hold
  rcases bumpHub_cases k t with hb | hb <;> rw [hb]
  · exact hcounted
  · exact hcounted.raise_beside (.inl rfl)

namespace Beside
variable {s t : State}

theorem dg (h : Beside s t) : t.dg = s.dg := congrArg (fun u => u.dg) h.frame
theorem tu (h : Beside s t) : t.tu = s.tu := congrArg (fun u => u.tu) h.frame
theorem hu (h : Beside s t) : t.hu = s.hu := congrArg (fun u => u.hu) h.frame
theorem setCtx (s : State) (p : Part) (c : Context) : Beside s (s.setCtx p c) := ⟨rfl, rfl⟩

end Beside

theorem BesideBoard.setDPart (s : State) (p : Part) (d : DomainPart) : BesideBoard s (s.setDPart p d) where
  frame := by simp only [State.setDPart, State.setPse, State.setCf, State.setDg, State.setTu, State.setHu]
  stores := rfl

/-- A FREEZE, RESUME or SWAP at a child in service, once the hub that heard it has acted as `e` and its log say. -/
theorem exec_staying {c : Instr} {p : Part} {s e : State} {es : List Event} {hs : List (Fin 3)}
    (hc : c.runCell = some p) (hb : c.begins = false) (hstep : ∀ n age, c ≠ .step .u p n age) (hs' : s.InService)
    (he : BesideBoard (s.heard .u) e) (hcf : e.cf = s.cf) (hrec : Recording es [] hs e (takeCell c p (s.heard .u))) :
    ∃ t, exec c s = .next t ∧ t.pse = e.pse ∧ t.cf.slots = s.cf.slots ∧ (∀ n : Fin 6, t.egress n = s.copied c p n) ∧
      (t.dg = e.dg ∧ t.tu = e.tu ∧ t.hu = e.hu) ∧
      (Beside (s.heard .u) e → SameOutsideRun (s.heard .u) t) ∧ SameOutsideBoard (s.heard .u) t ∧
      CellLogged c p es hs s t := by
  obtain ⟨t, u, hx, hu, ht, hboard, hcopied, hlog, hnotes⟩ := exec_runCell_copied onlyQueues_law hc hs'
    (placeCell_stays hc hb hstep _) ⟨.refl e, rfl, rfl⟩ he (by rw [hcf]) hrec
  have hbeside := hu.toBeside
  have hslots : t.cf.slots = s.cf.slots := by rw [ht.cfSlots, hu.slots, hcf]
  have hlog' : Logged (es ++ s.copyEvents p (findsFull c)) (s.copyLosses p (findsFull c)) hs s t :=
    hlog.of_mem fun e => by simp [or_comm]
  have hframe : Beside (s.heard .u) e → SameOutsideRun (s.heard .u) t := fun h => ht.sameOutsideRun (h.trans hbeside)
  have hboards : t.dg = e.dg ∧ t.tu = e.tu ∧ t.hu = e.hu :=
    ⟨ht.dg.trans hbeside.dg, ht.tu.trans hbeside.tu, ht.hu.trans hbeside.hu⟩
  exact ⟨t, hx, ht.pse.trans hu.pse, hslots, hcopied, hboards, hframe, ht.sameOutsideBoard hboard, hlog', hnotes⟩

/-- Settles O35: each cell acts on the context or the swap record of the hub that heard it, and its copies move queues. -/
theorem freezesResumesAndSwapsTaken : Obligations.FreezesResumesAndSwapsTaken := by
  intro p f w causes short s hs hrun
  have hstart : ∀ {e : State}, e.own = (s.heard .u).own → Recording [] [] [] e e :=
    fun h => Recording.start (settled_of_own (heard_settled hs.1.2) h)
  have hrun' : ((s.heard .u).ctx p).inRun = true := by rwa [heard_ctx]
  refine ⟨fun hf => ?_, fun hst hr => ?_, ?_⟩
  · have hrec : Recording (if short then [.leadShort] else []) [] []
        ((s.heard .u).setCtx p ((s.ctx p).stoppedAt f causes s.now))
        (takeCell (.freeze .u p f causes short) p (s.heard .u)) := by
      rw [takeCell, freezeCtx_takes causes short hrun' (by rwa [heard_ctx]), heard_ctx]
      cases short
      · exact hstart rfl
      · exact Recording.raise (s := (s.heard .u).setCtx p _) (hstart rfl) .leadShort
    obtain ⟨t, hx, hpse, hslots, hcopied, -, hframe, -, hlog⟩ :=
      exec_staying rfl rfl (fun _ _ h => by cases h) hs (Beside.setCtx _ _ _).board (heard_cf _ _) hrec
    refine ⟨t, hx, ?_, hslots, hcopied, hframe (.setCtx _ _ _), hlog⟩
    rw [hpse, ← heard_pse .u]
    rfl
  · have hrec : Recording [] [] [] ((s.heard .u).setCtx p (s.ctx p).goesOn)
        (takeCell (.resume .u p f) p (s.heard .u)) := by
      rw [takeCell, resumeCtx_takes (by rwa [heard_ctx]) (by rwa [heard_ctx]), heard_ctx]
      exact hstart rfl
    obtain ⟨t, hx, hpse, hslots, hcopied, -, hframe, -, hlog⟩ :=
      exec_staying rfl rfl (fun _ _ h => by cases h) hs (Beside.setCtx _ _ _).board (heard_cf _ _) hrec
    refine ⟨t, hx, ?_, hslots, hcopied, hframe (.setCtx _ _ _), hlog⟩
    rw [hpse, ← heard_pse .u]
    rfl
  · have hrec : Recording [] [] (if (s.route p).isLocal && s.refusesSwap p w then [1] else [])
        (if (s.route p).isLocal && !s.refusesSwap p w then
          (s.heard .u).setDPart p { s.dpart p with swaps := (s.dpart p).swaps ++ [w] } else s.heard .u)
        (takeCell (.swap .u p w) p (s.heard .u)) := by
      have htake : takeCell (.swap .u p w) p (s.heard .u) = if (s.route p).isLocal then
          if s.refusesSwap p w then bumpHub 1 (s.heard .u)
          else (s.heard .u).setDPart p { s.dpart p with swaps := (s.dpart p).swaps ++ [w] }
        else s.heard .u := takeSwap_takes (s := s.heard .u) hrun'
      rw [htake]
      cases (s.route p).isLocal <;> cases s.refusesSwap p w
      exacts [hstart rfl, hstart rfl, hstart rfl, (hstart rfl).bumpHub (by simp)]
    have hboard : BesideBoard (s.heard .u) (if (s.route p).isLocal && !s.refusesSwap p w then
        (s.heard .u).setDPart p { s.dpart p with swaps := (s.dpart p).swaps ++ [w] } else s.heard .u) := by
      split
      exacts [.setDPart _ _ _, (Beside.refl _).board]
    obtain ⟨t, hx, hpse, hslots, hcopied, ⟨hdg, htu, hhu⟩, -, hframe, hlog⟩ :=
      exec_staying rfl rfl (fun _ _ h => by cases h) hs hboard (by split <;> exact heard_cf _ _) hrec
    refine ⟨t, hx, ?_, ?_, hslots, hcopied, ?_, ?_, hframe⟩
    · simp only [← refusesSwap_eq]
      refine ⟨?_, hlog⟩
      rw [hdg]
      split <;> rfl
    · rw [hpse, ← heard_pse .u]; split <;> rfl
    · rw [htu]; split <;> rfl
    · rw [hhu]; split <;> rfl

end Sys2Proof.Machine
end

section
/-! SUPPORT. STEP cells at a child (R66, R67, R71 to R73, R77, R82), and the faults of a run's cells (R66 to R69, R79), with
their statements. -/

namespace Sys2Proof.Machine
open Sys2Proof

/-! A partition's pace state after its context has moved -/

theorem paceOf_setCtx_ne {p q : Part} (h : p ≠ q) (s : State) (c : Context) : (s.setCtx p c).paceOf q = s.paceOf q := by
  simp only [State.paceOf, State.ctx_setCtx_ne _ _ _ _ h]
  rfl

theorem paceOf_setCtx_self (p : Part) (s : State) (c : Context) : (s.setCtx p c).paceOf p =
    (c.queueSlow || allLinks.any fun n => look c.childSlow n || (s.inMask p n && (s.egress n).backedUp)) := by
  simp only [State.paceOf, State.ctx_setCtx_self]
  rfl

/-- The pace state of every partition but `p` follows its sources (R84). -/
def State.PaceFollowsBut (p : Part) (s : State) : Prop := ∀ q, p ≠ q → (s.ctx q).pace = s.paceOf q

theorem State.PaceFollows.setCtx {s : State} (h : s.PaceFollows) (p : Part) (c : Context) :
    (s.setCtx p c).PaceFollowsBut p := fun q hq => by
  rw [paceOf_setCtx_ne hq, State.ctx_setCtx_ne _ _ _ _ hq]
  exact h q

section
variable {p : Part} {s : State}

theorem paceFollows_repace (h : s.PaceFollowsBut p) : (repace p s).PaceFollows := fun q => by
  rw [repace_paceOf, repace_ctx]
  split
  · rfl
  · next hq => exact h q hq

theorem repace_egress (p : Part) (s : State) : (repace p s).cf.egress = s.cf.egress := by rw [(repace_frame p s).2.1]

theorem Beside.repace (hr : s.isRoot = false) (p : Part) : Beside s (repace p s) := beside_repaces hr [p]

/-- A pace state recomputed moves one way where its sources say so. -/
theorem PacedToward.repace {d : Bool} (hr : s.isRoot = false) (h : s.PaceFollowsBut p)
    (hp : s.paceOf p = (s.ctx p).pace ∨ s.paceOf p = d) : PacedToward d s (repace p s) where
  toBeside := .repace hr p
  ctx q := by
    rw [repace_ctx, repace_paceOf]
    split
    · rfl
    · next hq => rw [← h q hq]
  slots q := by
    rw [repace_slots hr, repace_paceOf]
    split
    · rfl
    · next hq => rw [State.paceSlotAfter, if_pos (.inl (h q hq).symm)]
  toward q := by
    rw [repace_paceOf]
    by_cases hq : p = q
    · exact hq ▸ hp
    · exact .inl (h q hq).symm

theorem slows_iff_paceEvents (p : Part) (s : State) (e : Event) :
    (e ∈ if s.slows p then [Event.paceSlow] else []) ↔ e ∈ paceEvents s (Machine.repace p s) := by
  have hany : (allParts.any fun q => !(s.ctx q).pace && ((Machine.repace p s).ctx q).pace) = s.slows p := by
    have hone : ∀ q, (!(s.ctx q).pace && ((Machine.repace p s).ctx q).pace) = (decide (p = q) && s.slows p) := fun q => by
      rw [repace_ctx]
      by_cases hq : p = q
      · subst hq; simp [State.slows]
      · simp [hq]
    simp only [hone]
    rw [Bool.eq_iff_iff, List.any_eq_true]
    simp [mem_allParts]
  rw [paceEvents, hany]

end

/-! A STEP that its context takes -/

theorem State.setCtx_setCtx (s : State) (p : Part) (c d : Context) : (s.setCtx p c).setCtx p d = s.setCtx p d := by
  simp only [State.setCtx, State.setPse_pse, upd_upd]
  rfl

section
variable {p : Part} {n age : Nat} {s : State}

theorem barred_iff {c : Context} : c.barred n = true ↔ freezeMax ≤ n ∨ ∃ f ∈ c.freeze, f ≤ n := by
  unfold Context.barred
  cases c.freeze <;> simp

/-- A STEP that brings no fault is accepted, as the expected one, and finds room (R66, R67). -/
theorem stepCtx_accepts (hst : (s.ctx p).state = .armed ∨ (s.ctx p).state = .running ∨ (s.ctx p).state = .freezing)
    (hf : s.faultOf p (.step .u p n age) = none) :
    stepCtx p n age s = acceptStep p n age s ∧ ((s.route p).isLocal = true → (s.ctx p).queue.length < 128) := by
  unfold State.faultOf at hf
  dsimp only at hf
  split at hf
  · cases hf
  split at hf
  · cases hf
  next hfrozen hexp =>
  split at hf
  · cases hf
  next hbar =>
  split at hf
  · cases hf
  next hfull =>
  have hbarred : (s.ctx p).barred n = false := by rw [← Bool.not_eq_true, barred_iff]; exact hbar
  refine ⟨?_, fun hl => by simp_all⟩
  unfold stepCtx
  rw [if_neg hexp, hbarred, if_neg (by decide)]
  rcases hst with h | h | h <;> rw [h]

@[simp] theorem noteShort_ctx (q : Part) (t : State) : (noteShort age t).ctx q = t.ctx q := by
  have hpse : (noteShort age t).pse = t.pse := congrArg (fun u => u.pse) (show (noteShort age t).sansLog = t.sansLog by
    unfold noteShort
    split
    · rw [bumpHub_sansLog, raise_sansLog]
    · rfl)
  rw [State.ctx, hpse, State.ctx]

theorem acceptStep_local (hl : (s.route p).isLocal = true) (hq : (s.ctx p).queue.length < 128) :
    acceptStep p n age s = settlePace p (let t := noteShort age (s.setCtx p { s.ctx p with expected := n + 1 })
      t.setCtx p ((t.ctx p).enqueue ⟨n, s.expiry age⟩ s.ma.hub.high)) := by
  rw [acceptStep, if_pos hl]
  exact if_neg (by simpa using hq)

theorem acceptStep_routed (hl : (s.route p).isLocal = false) : acceptStep p n age s =
    s.setCtx p (({ s.ctx p with expected := n + 1 } : Context).advance n s.now) := by
  simp [acceptStep, hl, State.setCtx_setCtx]

/-- A STEP that brings a fault: the fault alone, or an overrun once it is the expected step (R66, R67). -/
theorem stepCtx_faults {cause : FaultCause} (hrun : (s.ctx p).inRun = true)
    (hf : s.faultOf p (.step .u p n age) = some cause) :
    cause ≠ .overrun ∧ stepCtx p n age s = faultCtx p cause s ∨
      cause = .overrun ∧ stepCtx p n age s =
        faultCtx p .overrun (noteShort age (s.setCtx p { s.ctx p with expected := (s.ctx p).expected + 1 })) := by
  unfold State.faultOf at hf
  dsimp only at hf
  split at hf
  · next h =>
    cases hf
    refine .inl ⟨by decide, ?_⟩
    rw [stepCtx, h]
  next hfrozen =>
  have hstep : stepCtx p n age s = if n ≠ (s.ctx p).expected then faultCtx p .stepGap s
      else if (s.ctx p).barred n then faultCtx p .protocol s else acceptStep p n age s := by
    unfold stepCtx
    rcases inRun_iff.mp hrun with h | h | h | h
    · rw [h]
    · rw [h]
    · rw [h]
    · exact absurd h hfrozen
  rw [hstep]
  split at hf
  · next hexp => cases hf; exact .inl ⟨by decide, if_pos hexp⟩
  next hexp =>
  rw [if_neg hexp]
  split at hf
  · next hbar => cases hf; exact .inl ⟨by decide, if_pos (barred_iff.mpr hbar)⟩
  next hbar =>
  rw [if_neg (by rw [barred_iff]; exact hbar)]
  split at hf
  · next hfull =>
    cases hf
    refine .inr ⟨rfl, ?_⟩
    obtain ⟨hlocal, hlength⟩ := hfull
    rw [acceptStep, if_pos hlocal, not_not.mp hexp]
    exact if_pos (by simpa using hlength)
  · cases hf

theorem Context.advance_eq {c : Context} (n now : Nat) (hc : c.state ≠ .frozen) : c.advance n now =
    { c with
      last := some n
      state := if c.freeze = some (n + 1) then .frozen else if c.state = .armed then .running else c.state
      frozenMark := if c.freeze = some (n + 1) then now else c.frozenMark } := by
  unfold Context.advance Context.toFrozen
  dsimp only
  rw [if_neg hc]
  split
  · rfl
  · split <;> rfl

end

section
variable {es : List Event} {cs : List (PortId × Fin 8)} {hs : List (Fin 3)} {s t : State}

theorem Recording.isShort_eq (h : Recording es cs hs s t) (age : Nat) : t.isShort age = s.isShort age :=
  congrArg (fun u => u.isShort age) (show t.sansLog = s.sansLog from h.sansLog_eq)

/-- A short step is raised and counted (R73). -/
theorem Recording.noteShort (h : Recording es cs [] s t) (age : Nat) :
    Recording ((if s.isShort age then [.alignShort] else []) ++ es) cs (if s.isShort age then [0] else []) s
      (Machine.noteShort age t) := by
  rw [Machine.noteShort, h.isShort_eq]
  cases s.isShort age
  exacts [h, (h.raise .alignShort).bumpHub (by simp)]

end

/-- A context that a cell has moved to `c` keeps pace states as it finds them until they are recomputed. -/
theorem PacedToward.moved {d : Bool} {g e u t s : State} {p : Part} {c : Context} (h : PacedToward d e u)
    (ht : SettledAs u t) (he : e = g.setCtx p c) (hg : ∀ q, g.ctx q = s.ctx q) (hslots : ∀ q, g.slots q = s.slots q)
    (hpace : c.pace = (s.ctx p).pace) (hidle : c.state = .idle ↔ (s.ctx p).state = .idle) :
    t.ctx p = { c with pace := t.paceOf p } ∧
    t.slots p = { s.slots p with pace := s.paceSlotAfter p (t.paceOf p) } ∧
    (∀ q, q ≠ p → OnlyPaceMoves q s t) ∧ paceEvents s t = paceEvents e u := by
  have hctx : e.ctx p = c := by rw [he, State.ctx_setCtx_self]
  have hothers : ∀ q, q ≠ p → e.ctx q = s.ctx q := fun q hq => by rw [he, State.ctx_setCtx_ne _ _ _ _ hq.symm, hg]
  have heslots : ∀ q, e.slots q = s.slots q := fun q => by rw [he, State.slots_setCtx, hslots]
  refine ⟨by rw [ht.ctx, ht.paceOf, h.ctx, hctx], ?_, fun q hq => h.onlyPaceMoves ht (hothers q hq) (heslots q),
    paceEvents_eq (fun q => ?_) ht.ctx⟩
  · rw [ht.slots, ht.paceOf, h.slots, heslots]
    simp only [State.paceSlotAfter, hctx, hpace, hidle, heslots]
  · by_cases hq : q = p
    · rw [hq, hctx, hpace]
    · rw [hothers q hq]

/-- A STEP at a child in service whose context goes to `c`, the hold-queue source going SLOW at most, by what is recorded once
its pace state has followed. -/
theorem exec_step_moved {p : Part} {n age : Nat} {s : State} {c : Context} {es : List Event} {hs : List (Fin 3)}
    (hs' : s.InService) (hpace : s.PaceFollows) (hkept : c.pace = (s.ctx p).pace)
    (hidle : c.state = .idle ↔ (s.ctx p).state = .idle) (hchild : c.childSlow = (s.ctx p).childSlow)
    (hqueue : c.queueSlow = (s.ctx p).queueSlow ∨ c.queueSlow = true)
    (hrec : Recording ((if ((s.heard .u).setCtx p c).slows p then [.paceSlow] else []) ++ es) [] hs
      (repace p ((s.heard .u).setCtx p c)) (takeCell (.step .u p n age) p (s.heard .u))) :
    ∃ t, exec (.step .u p n age) s = .next t ∧ t.ctx p = { c with pace := t.paceOf p } ∧
      t.slots p = { s.slots p with pace := s.paceSlotAfter p (t.paceOf p) } ∧
      Forwarded (.step .u p n age) p s t ∧ SameOutsideRun (s.heard .u) t ∧
      CellLogged (.step .u p n age) p (es ++ paceEvents s t) hs s t := by
  have hroot : ((s.heard .u).setCtx p c).isRoot = false := (heard_isRoot .u s).trans hs'.2.1
  have hegress : (repace p ((s.heard .u).setCtx p c)).cf.egress = s.cf.egress := by
    rw [repace_egress, State.setCtx_cf, heard_cf]
  have hfollows := heard_paceFollows .u hpace
  have hbut := hfollows.setCtx p c
  have hself : ((s.heard .u).setCtx p c).paceOf p = (((s.heard .u).setCtx p c).ctx p).pace ∨
      ((s.heard .u).setCtx p c).paceOf p = true := by
    rw [State.ctx_setCtx_self, paceOf_setCtx_self, hkept, hpace p, ← heard_paceOf .u, State.paceOf, hchild, heard_ctx]
    rcases hqueue with h | h <;> rw [h]
    exacts [.inl rfl, .inr rfl]
  have hmoved : PacedToward true ((s.heard .u).setCtx p c) (repace p ((s.heard .u).setCtx p c)) :=
    .repace hroot hbut hself
  have hbeside : Beside (s.heard .u) (repace p ((s.heard .u).setCtx p c)) :=
    (Beside.setCtx _ p c).trans hmoved.toBeside
  obtain ⟨t, u, hx, hu, ht, -, hcopied, hlog, hnotes⟩ := exec_runCell_copied (pacedLaw _) rfl hs'
    (placeCell_paced rfl _) (.refl (paceFollows_repace hbut)) hbeside.board
    hegress hrec
  obtain ⟨hctx, hslots, hothers, hevents⟩ :=
    (hmoved.trans hu).moved (s := s) ht rfl (fun _ => heard_ctx _) (fun _ => heard_slots _) hkept hidle
  have hframe : SameOutsideRun (s.heard .u) t := ht.sameOutsideRun (hbeside.trans hu.toBeside)
  have hlog' : CellLogged (.step .u p n age) p (es ++ paceEvents s t) hs s t := by
    refine ⟨hlog.of_mem fun e => ?_, hnotes⟩
    simp only [List.mem_append, hevents, mem_paceEvents_trans hmoved hu, slows_iff_paceEvents, or_assoc, or_comm,
      or_left_comm]
  exact ⟨t, hx, hctx, hslots, ⟨hcopied, hothers⟩, hframe, hlog'⟩

/-- Settles O32: the STEP is accepted; a local context holds it and its pace state follows, another receives it. -/
theorem stepsTaken : Obligations.StepsTaken := by
  intro p n age s hs hpace hst hf
  have hset : (s.heard .u).Settled := heard_settled hs.1.2
  obtain ⟨haccept, hroom⟩ := stepCtx_accepts (age := age) (s := s.heard .u) hst hf
  have hnotIdle : (s.ctx p).state ≠ .idle := by rcases hst with h | h | h <;> simp [h]
  have hnotFrozen : (s.ctx p).state ≠ .frozen := by rcases hst with h | h | h <;> simp [h]
  cases hlocal : (s.route p).isLocal
  · have hadvanced := Context.advance_eq (c := { s.ctx p with expected := n + 1 }) n s.now hnotFrozen
    have htake : takeCell (.step .u p n age) p (s.heard .u) =
        (s.heard .u).setCtx p (({ s.ctx p with expected := n + 1 } : Context).advance n s.now) :=
      haccept.trans (acceptStep_routed hlocal)
    generalize ({ s.ctx p with expected := n + 1 } : Context).advance n s.now = c at hadvanced htake
    have hidle : c.state = .idle ↔ (s.ctx p).state = .idle := by
      rw [hadvanced]
      dsimp only
      split
      · simpa using hnotIdle
      · split <;> simp_all
    have hsame : ((s.heard .u).setCtx p c).paceOf p = (((s.heard .u).setCtx p c).ctx p).pace := by
      rw [State.ctx_setCtx_self, paceOf_setCtx_self, hadvanced]
      exact (hpace p).symm
    have hrec : Recording ((if ((s.heard .u).setCtx p c).slows p then [.paceSlow] else []) ++ []) [] []
        (repace p ((s.heard .u).setCtx p c)) (takeCell (.step .u p n age) p (s.heard .u)) := by
      rw [htake, repace_of_same hsame, State.slows, hsame, Bool.not_and_self]
      exact Recording.start (settled_of_own hset rfl)
    obtain ⟨t, hx, hctx, hslots, hforward, hframe, hlog⟩ := exec_step_moved hs hpace (by rw [hadvanced]) hidle
      (by rw [hadvanced]) (.inl (by rw [hadvanced])) hrec
    refine ⟨t, hx, ⟨?_, hlog⟩, hslots, hforward, hframe⟩
    rw [hctx, hadvanced]
    rfl
  · have hshort : s.isShort age = (decide (s.ma.hub.budget < s.lp.pathLat + age) || age == 4095) := rfl
    obtain ⟨c, hc⟩ : ∃ c, c = ({ s.ctx p with expected := n + 1 } : Context).enqueue ⟨n, s.expiry age⟩ s.ma.hub.high :=
      ⟨_, rfl⟩
    have hqueue : c.queueSlow = (s.ctx p).queueSlow ∨ c.queueSlow = true := by
      rw [hc, Context.enqueue]
      cases (decide (s.ma.hub.high ≤ (s.ctx p).queue.length + 1))
      exacts [.inl rfl, .inr rfl]
    have hrec : Recording ((if ((s.heard .u).setCtx p c).slows p then [.paceSlow] else []) ++
          if s.isShort age then [.alignShort] else []) [] (if s.isShort age then [0] else [])
        (repace p ((s.heard .u).setCtx p c)) (takeCell (.step .u p n age) p (s.heard .u)) := by
      have htake : takeCell (.step .u p n age) p (s.heard .u) = _ := haccept.trans (acceptStep_local hlocal (hroom hlocal))
      rw [htake]
      have hnoted := (Recording.start (s := (s.heard .u).setCtx p { s.ctx p with expected := n + 1 })
        (settled_of_own hset rfl)).noteShort age
      have hheld := hnoted.map (LogBlind.updateCtx p fun c => c.enqueue ⟨n, s.expiry age⟩ s.ma.hub.high)
      have hmoved : ((s.heard .u).setCtx p { s.ctx p with expected := n + 1 }).setCtx p
          ((((s.heard .u).setCtx p { s.ctx p with expected := n + 1 }).ctx p).enqueue ⟨n, s.expiry age⟩ s.ma.hub.high) =
          (s.heard .u).setCtx p c := by
        rw [State.setCtx_setCtx, State.ctx_setCtx_self, hc]
      have hsettled := hheld.settlePace p
      rw [hmoved] at hsettled
      rw [List.append_nil] at hsettled
      exact hsettled
    obtain ⟨t, hx, hctx, hslots, hforward, hframe, hlog⟩ := exec_step_moved hs hpace (by rw [hc]; rfl) (by rw [hc]; rfl)
      (by rw [hc]; rfl) hqueue hrec
    simp only [Bool.true_and, ← hshort, if_true]
    refine ⟨t, hx, ⟨?_, hlog⟩, hslots, hforward, hframe⟩
    rw [hctx, hc, Bool.or_comm]
    rfl


/-! A fault of a context in a run -/

theorem Context.struck_of_inRun {c : Context} (h : c.inRun = true) (cause : FaultCause) : c.struck cause =
    { c with state := .faulted, fault := some cause, queue := [], queueSlow := false } := by
  unfold Context.struck
  rcases inRun_iff.mp h with h | h | h | h <;> rw [h]

/-- A child whose context of `p` has been faulted, its log and pace state apart (R79, R56). -/
def State.faulted (s : State) (p : Part) (cause : FaultCause) : State :=
  (s.setCtx p ((s.ctx p).struck cause)).setSlots p
    { s.slots p with fault := some ((s.slots p).fault.getD ⟨cause, s.ownAddr, (s.ctx p).last⟩) }

theorem faulted_logBlind (p : Part) (cause : FaultCause) : LogBlind fun s => s.faulted p cause :=
  LogBlind.of_commutes (fun _ => rfl) (fun _ => rfl) (fun _ => rfl) (fun _ => rfl) fun _ => rfl

theorem Beside.faulted (s : State) (p : Part) (cause : FaultCause) : Beside s (s.faulted p cause) := ⟨rfl, rfl⟩

section
variable {p : Part} {cause : FaultCause} {s : State}

@[simp] theorem faulted_ctx_self : (s.faulted p cause).ctx p = (s.ctx p).struck cause := by simp [State.faulted]

theorem faulted_ctx_ne {q : Part} (h : p ≠ q) : (s.faulted p cause).ctx q = s.ctx q := by
  rw [State.faulted, State.ctx_setSlots, State.ctx_setCtx_ne _ _ _ _ h]

@[simp] theorem faulted_slots_self : (s.faulted p cause).slots p =
    { s.slots p with fault := some ((s.slots p).fault.getD ⟨cause, s.ownAddr, (s.ctx p).last⟩) } := by
  simp [State.faulted]

theorem faulted_slots_ne {q : Part} (h : p ≠ q) : (s.faulted p cause).slots q = s.slots q := by
  rw [State.faulted, State.slots_setSlots_ne _ _ _ _ h, State.slots_setCtx]

theorem faulted_egress : (s.faulted p cause).cf.egress = s.cf.egress := rfl

theorem faulted_paceOf_ne {q : Part} (h : p ≠ q) : (s.faulted p cause).paceOf q = s.paceOf q :=
  paceOf_setCtx_ne h s _

theorem faultCtx_child (hr : s.isRoot = false) (hrun : (s.ctx p).inRun = true) :
    faultCtx p cause s = Machine.settlePace p (raise .partFault (s.faulted p cause)) := by
  have hwrite : ∀ d r, writeFault p r (s.setCtx p d) = (s.setCtx p d).setSlots p
      { s.slots p with fault := some ((s.slots p).fault.getD r) } := fun d r => writeFault_child (s := s.setCtx p d) r hr
  rw [State.faulted, Context.struck_of_inRun hrun, ← hwrite]
  unfold faultCtx
  dsimp only
  rcases inRun_iff.mp hrun with h | h | h | h <;> rw [h]

/-- A fault of a context in a run at a child: PART_FAULT, then its pace state (R79). -/
theorem Recording.faultCtx {es : List Event} {cs : List (PortId × Fin 8)} {hs : List (Fin 3)} {t : State}
    (h : Recording es cs hs s t) (hr : s.isRoot = false) (hrun : (s.ctx p).inRun = true) (cause : FaultCause) :
    Recording ((if (s.faulted p cause).slows p then [.paceSlow] else []) ++ .partFault :: es) cs hs
      (repace p (s.faulted p cause)) (Machine.faultCtx p cause t) := by
  have hrole : t.isRoot = false := by
    rw [show t.isRoot = s.isRoot from
      congrArg (fun u => u.isRoot) (show t.sansLog = s.sansLog from h.sansLog_eq), hr]
  have hctx : t.ctx p = s.ctx p := SettledAs.ctx ⟨h.sansLog_eq⟩ p
  rw [faultCtx_child hrole (hctx ▸ hrun)]
  exact ((h.map (faulted_logBlind p cause)).raise .partFault).settlePace p

end

/-! The cells that bring it -/

section
variable {p : Part} {s : State}

theorem freezeCtx_faults {f : Nat} (causes : Causes) (short : Bool) (hrun : (s.ctx p).inRun = true)
    (hf : f < (s.ctx p).expected) : freezeCtx p f causes short s = faultCtx p .protocol s := by
  unfold freezeCtx
  rw [if_pos hf]
  rcases inRun_iff.mp hrun with h | h | h | h <;> rw [h]

theorem resumeCtx_faults {r : Nat} (hrun : (s.ctx p).inRun = true)
    (hr : ¬(((s.ctx p).state = .freezing ∨ (s.ctx p).state = .frozen) ∧ (s.ctx p).freeze = some r)) :
    resumeCtx p r s = faultCtx p .protocol s := by
  unfold resumeCtx
  rcases inRun_iff.mp hrun with h | h | h | h <;> simp only [h] <;> simp_all

/-- A cell of a run that brings a fault: the fault alone, or an overrun by the expected STEP. -/
theorem takeCell_faults {c : Instr} {cause : FaultCause} (hc : c.runCell = some p) (hrun : (s.ctx p).inRun = true)
    (hf : s.faultOf p c = some cause) :
    cause ≠ .overrun ∧ takeCell c p s = faultCtx p cause s ∨
      ∃ n age, c = .step .u p n age ∧ cause = .overrun ∧ takeCell c p s =
        faultCtx p .overrun (noteShort age (s.setCtx p { s.ctx p with expected := (s.ctx p).expected + 1 })) := by
  rcases runCell_cases hc with ⟨n, age, rfl⟩ | ⟨e, rfl⟩ | ⟨f, causes, short, rfl⟩ | ⟨r, rfl⟩ | rfl | ⟨w, rfl⟩
  · rcases stepCtx_faults hrun hf with h | ⟨h, ht⟩
    exacts [.inl h, .inr ⟨n, age, rfl, h, ht⟩]
  · cases hf
  · simp only [State.faultOf] at hf
    split at hf
    · next h => cases hf; exact .inl ⟨by decide, freezeCtx_faults causes short hrun h⟩
    · cases hf
  · simp only [State.faultOf] at hf
    split at hf
    · cases hf
    · next h => cases hf; exact .inl ⟨by decide, resumeCtx_faults hrun h⟩
  · cases hf
  · cases hf

end

/-- PACE_SLOW may be listed as it is latched. -/
theorem Logged.paceOpen {es es' : List Event} {cs : List (PortId × Fin 8)} {hs : List (Fin 3)} {s t : State}
    (h : Logged es cs hs s t) (he : ∀ e, e ≠ .paceSlow → (e ∈ es' ↔ e ∈ es))
    (hp : .paceSlow ∈ es' ↔ t.latched .paceSlow = true) : Logged es' cs hs s t := by
  obtain ⟨hset, hkept, hother, hcounts⟩ := h
  refine ⟨fun e hm => ?_, hkept, fun e ha hm hc hd => ?_, hcounts⟩
  · by_cases hslow : e = .paceSlow
    · exact hslow ▸ hp.mp (hslow ▸ hm)
    · exact hset e ((he e hslow).mp hm)
  · by_cases hslow : e = .paceSlow
    · rw [hslow] at hm ha ⊢
      have hclear : t.latched .paceSlow = false := by
        rw [← Bool.not_eq_true]
        exact fun hl => hm (hp.mpr hl)
      rw [hclear]
      refine (Bool.eq_false_iff.mpr fun hl => ?_).symm
      rw [hkept _ ha hl] at hclear
      cases hclear
    · exact hother e ha (fun h' => hm ((he e hslow).mpr h')) hc hd

/-- A cell of a run at a child in service whose context, gone to `c0` in the run, is faulted, by what is recorded once its
pace state has followed. -/
theorem exec_cell_faulted {c : Instr} {p : Part} {cause : FaultCause} {s : State} {c0 : Context} {es : List Event}
    {hs : List (Fin 3)} (hs' : s.InService) (hpace : s.PaceFollows) (hc : c.runCell = some p)
    (hrun : c0.inRun = true) (hkept : c0.pace = (s.ctx p).pace) (hlast : c0.last = (s.ctx p).last)
    (hrec : Recording ((if (((s.heard .u).setCtx p c0).faulted p cause).slows p then [.paceSlow] else []) ++
      .partFault :: es) [] hs (repace p (((s.heard .u).setCtx p c0).faulted p cause)) (takeCell c p (s.heard .u)))
    (hes : .paceSlow ∉ es) :
    ∃ t, exec c s = .next t ∧ t.ctx p = { c0.struck cause with pace := t.paceOf p } ∧
      { t.slots p with pace := none } =
        { s.slots p with
          fault := some ((s.slots p).fault.getD ⟨cause, s.ownAddr, (s.ctx p).last⟩)
          pace := none } ∧
      (t.paceOf p ≠ (s.ctx p).pace → (t.slots p).pace = some (t.paceOf p)) ∧
      Forwarded c p s t ∧ SameOutsideRun (s.heard .u) t ∧
      CellLogged c p (.partFault :: es ++ t.paceOpen) hs s t := by
  obtain ⟨g, hg⟩ : ∃ g, g = ((s.heard .u).setCtx p c0).faulted p cause := ⟨_, rfl⟩
  rw [← hg] at hrec
  have hbeside : Beside (s.heard .u) g := hg ▸ (Beside.setCtx _ p c0).trans (.faulted _ p cause)
  have hroot : g.isRoot = false := hbeside.isRoot.trans ((heard_isRoot .u s).trans hs'.2.1)
  have hfollows := heard_paceFollows .u hpace
  have hgctx : g.ctx p = c0.struck cause := by rw [hg, faulted_ctx_self, State.ctx_setCtx_self]
  have hgslots : g.slots p =
      { s.slots p with fault := some ((s.slots p).fault.getD ⟨cause, s.ownAddr, (s.ctx p).last⟩) } := by
    rw [hg, faulted_slots_self, State.ctx_setCtx_self, hlast, State.slots_setCtx, heard_slots]
    rfl
  have hothers : ∀ q, p ≠ q → g.ctx q = s.ctx q ∧ g.slots q = s.slots q := fun q hq => by
    rw [hg, faulted_ctx_ne hq, faulted_slots_ne hq, State.ctx_setCtx_ne _ _ _ _ hq, State.slots_setCtx, heard_ctx,
      heard_slots]
    exact ⟨rfl, rfl⟩
  have hbut : g.PaceFollowsBut p := fun q hq => by
    rw [hg, faulted_ctx_ne hq, faulted_paceOf_ne hq]
    exact hfollows.setCtx p c0 q hq
  have hegress : (repace p g).cf.egress = s.cf.egress := by
    rw [repace_egress, hg, faulted_egress, State.setCtx_cf, heard_cf]
  obtain ⟨t, u, hx, hu, ht, -, hcopied, hlog, hnotes⟩ := exec_runCell_copied (pacedLaw _) hc hs'
    (placeCell_paced hc _) (.refl (paceFollows_repace hbut)) (hbeside.trans (.repace hroot p)).board hegress hrec
  have hectx : ∀ q, p ≠ q → (repace p g).ctx q = s.ctx q := fun q hq => by
    rw [repace_ctx, if_neg hq, (hothers q hq).1]
  have heslots : ∀ q, p ≠ q → (repace p g).slots q = s.slots q := fun q hq => by
    rw [repace_slots hroot, if_neg hq, (hothers q hq).2]
  have hframe : SameOutsideRun (s.heard .u) t :=
    ht.sameOutsideRun ((hbeside.trans (.repace hroot p)).trans hu.toBeside)
  have hstruck := Context.struck_of_inRun hrun cause
  refine ⟨t, hx, ?_, ?_, fun hv => ?_, ⟨hcopied, fun q hq => ?_⟩, hframe, ?_, hnotes⟩
  · rw [ht.ctx, ht.paceOf, hu.ctx, repace_ctx, if_pos rfl, hgctx]
  · rw [ht.slots, hu.slots, repace_slots hroot, if_pos rfl, hgslots]
  · have hold : (g.ctx p).pace = (s.ctx p).pace := by rw [hgctx, hstruck, hkept]
    have hstate : (g.ctx p).state ≠ .idle := by simp [hgctx, hstruck]
    rw [ht.paceOf] at hv ⊢
    rw [ht.slots, hu.slots, repace_slots hroot, if_pos rfl]
    simp only [State.paceSlotAfter, repace_ctx, if_true, hstate, or_false, hold, repace_slots hroot]
    split
    · next hsame => rw [if_neg (hsame ▸ hv), hsame]
    · rfl
  · exact hu.onlyPaceMoves ht (hectx q hq.symm) (heslots q hq.symm)
  · refine hlog.paceOpen (fun e he => ?_) ?_
    · have hnone : ∀ a b : State, e ∉ paceEvents a b := fun a b => by
        unfold paceEvents
        split <;> simp [he]
      have hopen : e ∉ t.paceOpen := by
        unfold State.paceOpen
        split <;> simp [he]
      have hslow : e ∉ if g.slows p then [Event.paceSlow] else [] := by
        split <;> simp [he]
      simp only [List.mem_append, List.mem_cons, hnone, hopen, hslow, false_or, or_false]
      exact or_comm
    · have hcopy : Event.paceSlow ∉ s.copyEvents p (findsFull c) := by
        unfold State.copyEvents
        split <;> simp
      simp [hes, hcopy, State.paceOpen]

/-- Settles O33: the cell faults the context, whose pace state follows, and its copies move pace states to SLOW. -/
theorem unfitCellsFault : Obligations.UnfitCellsFault := by
  intro c p cause s hs hpace hc hrun hf
  have hset : (s.heard .u).Settled := heard_settled hs.1.2
  have hroot : (s.heard .u).isRoot = false := (heard_isRoot .u s).trans hs.2.1
  have hrun' : ((s.heard .u).ctx p).inRun = true := by rwa [heard_ctx]
  have hslow : ∀ {t : State}, (t.paceOf p ≠ (s.ctx p).pace → (t.slots p).pace = some (t.paceOf p)) →
      (t.paceOf p = true → (s.ctx p).pace = false → (t.slots p).pace = some true) ∧
      (t.paceOf p = false → (s.ctx p).pace = true → (t.slots p).pace = some false) := fun h =>
    ⟨fun ht hs => by rw [h (by simp [ht, hs]), ht], fun ht hs => by rw [h (by simp [ht, hs]), ht]⟩
  rcases takeCell_faults (s := s.heard .u) hc hrun' hf with ⟨hcause, htake⟩ | ⟨n, age, rfl, rfl, htake⟩
  · have hself : takeCell c p (s.heard .u) = faultCtx p cause ((s.heard .u).setCtx p (s.ctx p)) := by
      rw [htake, ← heard_ctx .u, State.setCtx_ctx]
    have hrec := (Recording.start (s := (s.heard .u).setCtx p (s.ctx p)) (settled_of_own hset rfl)).faultCtx (p := p)
      hroot (by rwa [State.ctx_setCtx_self]) cause
    rw [← hself] at hrec
    obtain ⟨t, hx, hctx, hslots, hpaced, hforward, hframe, hlog⟩ :=
      exec_cell_faulted hs hpace hc hrun rfl rfl hrec (by simp)
    refine ⟨t, hx, ?_, hslots, (hslow hpaced).1, (hslow hpaced).2, hforward, hframe, ?_⟩
    · rw [hctx, Context.struck_of_inRun hrun, if_neg hcause]
    · simpa [hcause] using hlog
  · obtain ⟨c0, hc0⟩ : ∃ c0, c0 = { s.ctx p with expected := (s.ctx p).expected + 1 } := ⟨_, rfl⟩
    have hrun0 : c0.inRun = true := by rw [hc0]; exact hrun
    have hself : takeCell (.step .u p n age) p (s.heard .u) =
        faultCtx p .overrun (noteShort age ((s.heard .u).setCtx p c0)) := by rw [htake, hc0, heard_ctx]
    have hrec := ((Recording.start (s := (s.heard .u).setCtx p c0) (settled_of_own hset rfl)).noteShort age).faultCtx
      (p := p) hroot (by rwa [State.ctx_setCtx_self]) .overrun
    rw [← hself, List.append_nil] at hrec
    have hshort : ((s.heard .u).setCtx p c0).isShort age = s.isShort age := rfl
    rw [hshort] at hrec
    obtain ⟨t, hx, hctx, hslots, hpaced, hforward, hframe, hlog⟩ :=
      exec_cell_faulted hs hpace hc hrun0 (by rw [hc0]) (by rw [hc0]) hrec (by split <;> simp)
    refine ⟨t, hx, ?_, hslots, (hslow hpaced).1, (hslow hpaced).2, hforward, hframe, ?_⟩
    · rw [hctx, Context.struck_of_inRun hrun0, Context.struck_of_inRun hrun, hc0]
      rfl
    · simpa using hlog

end Sys2Proof.Machine
end

section
/-! SUPPORT. START and ABORT at a child (R47, R57, R65, R70, R84, R93, R102, R121, R136), and the statement about them. -/

namespace Sys2Proof.Machine
open Sys2Proof

/-! What they bring before any pace state follows -/

/-- The hub once a START carrying `e` has cleared the run of `p`, its pace state apart. -/
def State.begun (s : State) (p : Part) (e : Nat) : State :=
  startDomains p (startTriggers p (clearHolds p (clearSlots p (s.setCtx p ((s.ctx p).started e)))))

/-- The hub once an ABORT has ended the run of `p`, its pace state apart. -/
def State.ended (s : State) (p : Part) : State :=
  abortDomains p (clearHolds p (clearSlots p (s.setCtx p (s.ctx p).aborted)))

/-- The domain generator with the record of `p` replaced and its lines at rest (R93, R102). -/
def State.restedDomains (s : State) (p : Part) (d : DomainPart) : DomainGen :=
  { s.dg with
    parts := upd s.dg.parts p d
    outs := tab fun i => if s.onDomainOf (s.out i) p then (s.out i).atRest else s.out i }

/-- The trigger lines of `p` with their counts cleared (R121). -/
def State.clearedTriggers (s : State) (p : Part) : TriggerUnit :=
  { s.tu with lines := tab fun i => if (s.trig i).part = p then { s.trig i with count := 0, fired := 0 } else s.trig i }

section
variable (s : State) (p : Part) (e : Nat)

theorem restLines_setDPart (d : DomainPart) : restLines p (s.setDPart p d) = s.setDg (s.restedDomains p d) := rfl

theorem begun_eq : s.begun p e =
    (((((s.setCtx p ((s.ctx p).started e)).setSlots p Slots.reset).setTable p HoldTable.reset).setTu
      (s.clearedTriggers p)).setCtx p
        { (s.ctx p).started e with prev := tab fun i => if (s.trig i).part = p then none else s.prev p i }).setDg
          (s.restedDomains p ⟨false, none, []⟩) := by
  have hctx : (clearHolds p (clearSlots p (s.setCtx p ((s.ctx p).started e)))).ctx p = (s.ctx p).started e :=
    s.ctx_setCtx_self p _
  rw [State.begun, startDomains, restLines_setDPart]
  unfold startTriggers
  simp only [State.prev, hctx]
  rfl

theorem ended_eq : s.ended p =
    (((s.setCtx p (s.ctx p).aborted).setSlots p Slots.reset).setTable p HoldTable.reset).setDg
      (s.restedDomains p ⟨(s.dpart p).bank, none, []⟩) := by
  rw [State.ended, abortDomains, restLines_setDPart]
  rfl

end

theorem clearSlots_logBlind (p : Part) : LogBlind (clearSlots p) :=
  LogBlind.of_commutes (fun _ => rfl) (fun _ => rfl) (fun _ => rfl) (fun _ => rfl) fun _ => rfl

theorem clearHolds_logBlind (p : Part) : LogBlind (clearHolds p) :=
  LogBlind.of_commutes (fun _ => rfl) (fun _ => rfl) (fun _ => rfl) (fun _ => rfl) fun _ => rfl

theorem startTriggers_logBlind (p : Part) : LogBlind (startTriggers p) :=
  LogBlind.of_commutes (fun _ => rfl) (fun _ => rfl) (fun _ => rfl) (fun _ => rfl) fun _ => rfl

theorem startDomains_logBlind (p : Part) : LogBlind (startDomains p) :=
  LogBlind.of_commutes (fun _ => rfl) (fun _ => rfl) (fun _ => rfl) (fun _ => rfl) fun _ => rfl

theorem abortDomains_logBlind (p : Part) : LogBlind (abortDomains p) :=
  LogBlind.of_commutes (fun _ => rfl) (fun _ => rfl) (fun _ => rfl) (fun _ => rfl) fun _ => rfl

theorem begun_logBlind (p : Part) (e : Nat) : LogBlind fun s => s.begun p e :=
  (startDomains_logBlind p).comp ((startTriggers_logBlind p).comp ((clearHolds_logBlind p).comp
    ((clearSlots_logBlind p).comp (.updateCtx p fun c => c.started e))))

theorem ended_logBlind (p : Part) : LogBlind fun s => s.ended p :=
  (abortDomains_logBlind p).comp ((clearHolds_logBlind p).comp
    ((clearSlots_logBlind p).comp (.updateCtx p Context.aborted)))

/-- What START and ABORT leave of the run of `p`: context, slots and records are replaced, no other partition's, and neither
routes nor queues. -/
structure RunCleared (p : Part) (c : Context) (s t : State) : Prop extends BesideBoard s t where
  egress : t.cf.egress = s.cf.egress
  ctx : t.ctx p = c
  slots : t.slots p = Slots.reset
  others : ∀ q, p ≠ q → t.ctx q = s.ctx q ∧ t.slots q = s.slots q
  table : t.hu = (s.setTable p HoldTable.reset).hu

theorem begun_cleared (s : State) (p : Part) (e : Nat) : RunCleared p { (s.ctx p).started e with
    prev := tab fun i => if (s.trig i).part = p then none else s.prev p i } s (s.begun p e) := by
  rw [begun_eq]
  refine ⟨⟨?_, rfl⟩, rfl, ?_, ?_, fun q hq => ⟨?_, ?_⟩, rfl⟩
  · simp only [State.setCtx, State.setSlots, State.setTable, State.setPse, State.setCf, State.setHu, State.setTu,
      State.setDg]
  · simp
  · simp
  · simp [hq]
  · simp [hq]

theorem ended_cleared (s : State) (p : Part) : RunCleared p (s.ctx p).aborted s (s.ended p) := by
  rw [ended_eq]
  refine ⟨⟨?_, rfl⟩, rfl, ?_, ?_, fun q hq => ⟨?_, ?_⟩, rfl⟩
  · simp only [State.setCtx, State.setSlots, State.setTable, State.setPse, State.setCf, State.setHu, State.setTu,
      State.setDg]
  · simp
  · simp
  · simp [hq]
  · simp [hq]

theorem paceOf_congr {s t : State} {q : Part} (hc : t.ctx q = s.ctx q) (hr : t.cf.routes = s.cf.routes)
    (he : t.cf.egress = s.cf.egress) : t.paceOf q = s.paceOf q := by
  simp only [State.paceOf, State.inMask, State.route, State.egress, hc, hr, he]

/-- Without its own hold queue and its children's reports a pace state goes to OK at most (Table 4-5). -/
theorem paceOf_cleared {s t : State} {p : Part} (hq : (t.ctx p).queueSlow = false)
    (hc : (t.ctx p).childSlow = tab fun _ => false) (hr : t.cf.routes = s.cf.routes) (he : t.cf.egress = s.cf.egress)
    (h : t.paceOf p = true) : s.paceOf p = true := by
  simp only [State.paceOf, State.inMask, State.route, State.egress, hq, hc, hr, he, look_tab, Bool.false_or,
    List.any_eq_true, Bool.or_eq_true] at h ⊢
  obtain ⟨n, hn, hb⟩ := h
  exact .inr ⟨n, hn, .inr hb⟩

/-! The PACE slot at a START -/

theorem reportStartPace_child {p : Part} {s : State} (hr : s.isRoot = false) : reportStartPace p s =
    s.setSlots p { s.slots p with pace := if (s.ctx p).pace then some true else (s.slots p).pace } := by
  unfold reportStartPace writePace
  rw [hr]
  cases (s.ctx p).pace
  · exact (s.setSlots_slots p).symm
  · rfl

theorem reportStartPace_logBlind (p : Part) : LogBlind (reportStartPace p) := by
  refine LogBlind.of_commutes (fun s => ?_) (fun s => ?_) (fun s => ?_) (fun s => ?_) fun s => ?_
  all_goals
    have hr : s.sansLog.isRoot = s.isRoot := rfl
    have hc : s.sansLog.ctx p = s.ctx p := rfl
    unfold reportStartPace writePace
    cases hs : s.isRoot <;> cases hp : (s.ctx p).pace <;> simp only [hr, hs, hc, hp] <;> rfl

/-- After a START the PACE slot holds the pace state that the sources give, where the pace state was SLOW (R84). -/
theorem reportStartPace_repace {p : Part} {s : State} (hr : s.isRoot = false) (hst : (s.ctx p).state ≠ .idle)
    (hnone : (s.slots p).pace = none) (hdown : s.paceOf p = true → (s.ctx p).pace = true) :
    reportStartPace p (repace p s) = (s.setCtx p { s.ctx p with pace := s.paceOf p }).setSlots p
      { s.slots p with pace := if (s.ctx p).pace then some (s.paceOf p) else none } := by
  rw [reportStartPace_child (by rwa [repace_isRoot]), repace_ctx, if_pos rfl, repace_slots hr, if_pos rfl, repace_child hr]
  cases hv : s.paceOf p <;> cases hc : (s.ctx p).pace <;>
    simp_all [State.paceSlotAfter, State.setSlots, State.setCf]


/-! Closing a START or an ABORT -/

/-- Pace states that go to OK raise nothing (R84). -/
theorem PacedToward.paceEvents_nil {s t : State} (h : PacedToward false s t) : paceEvents s t = [] := by
  have hnone : ∀ q, (!(s.ctx q).pace && (t.ctx q).pace) = false := fun q => by
    rw [h.ctx q]
    rcases h.toward q with ht | ht <;> simp [ht]
  simp [paceEvents, hnone]

/-- A START or ABORT at a child in service, by what is recorded before its copies. -/
theorem exec_cleared {c : Instr} {p : Part} {s g : State} {es : List Event} (hs : s.InService)
    (hc : c.runCell = some p) (hb : c.begins = true) (hg : BesideBoard (s.heard .u) g)
    (hegress : g.cf.egress = s.cf.egress) (hfollows : g.PaceFollows)
    (hothers : ∀ q, p ≠ q → g.ctx q = s.ctx q ∧ g.slots q = s.slots q)
    (hrec : Recording es [] [] g (takeCell c p (s.heard .u))) :
    ∃ t, exec c s = .next t ∧ t.ctx p = { g.ctx p with pace := t.paceOf p } ∧
      t.slots p = { g.slots p with pace := g.paceSlotAfter p (t.paceOf p) } ∧
      (t.paceOf p = (g.ctx p).pace ∨ t.paceOf p = false) ∧ (t.dg = g.dg ∧ t.tu = g.tu ∧ t.hu = g.hu) ∧
      Forwarded c p s t ∧ SameOutsideBoard (s.heard .u) t ∧ CellLogged c p es [] s t := by
  have hplace := placeCell_paced hc s.now
  rw [hb, Bool.not_true] at hplace
  obtain ⟨t, u, hx, hu, ht, hboard, hcopied, hlog, hnotes⟩ :=
    exec_runCell_copied (pacedLaw false) hc hs hplace (.refl hfollows) hg hegress hrec
  have hlog' : CellLogged c p es [] s t := by
    refine ⟨hlog.of_mem fun e => ?_, hnotes⟩
    rw [hu.paceEvents_nil, List.nil_append, List.mem_append, List.mem_append, or_comm]
  have hframe : SameOutsideBoard (s.heard .u) t := ht.sameOutsideBoard hboard
  have hunits : t.dg = g.dg ∧ t.tu = g.tu ∧ t.hu = g.hu :=
    ⟨ht.dg.trans hu.toBeside.dg, ht.tu.trans hu.toBeside.tu, ht.hu.trans hu.toBeside.hu⟩
  refine ⟨t, hx, by rw [ht.ctx, ht.paceOf, hu.ctx], by rw [ht.slots, ht.paceOf, hu.slots],
    by rw [ht.paceOf]; exact hu.toward p, hunits, ⟨hcopied, fun q hq => ?_⟩, hframe, hlog'⟩
  obtain ⟨hctx, hslots⟩ := hothers q hq.symm
  exact hu.onlyPaceMoves ht hctx hslots

/-- What a START or ABORT has cleared keeps the pace states of the other partitions. -/
theorem RunCleared.paceFollowsBut {p : Part} {c : Context} {s t : State} (h : RunCleared p c s t) (hs : s.PaceFollows) :
    t.PaceFollowsBut p := fun q hq => by
  rw [paceOf_congr (h.others q hq).1 h.routes h.egress, (h.others q hq).1]
  exact hs q

/-- Its own pace state goes to OK at most. -/
theorem RunCleared.slows_eq {p : Part} {c : Context} {s t : State} (h : RunCleared p c s t) (hs : s.PaceFollows)
    (hq : c.queueSlow = false) (hc : c.childSlow = tab fun _ => false) (hp : c.pace = (s.ctx p).pace) :
    (t.paceOf p = true → (t.ctx p).pace = true) ∧ t.slows p = false := by
  have hdown : t.paceOf p = true → (t.ctx p).pace = true := fun hv => by
    rw [h.ctx, hp, hs p]
    exact paceOf_cleared (by rw [h.ctx, hq]) (by rw [h.ctx, hc]) h.routes h.egress hv
  refine ⟨hdown, ?_⟩
  unfold State.slows
  cases hv : t.paceOf p
  · simp
  · simp [hdown hv]

/-- An ABORT at a child in service. -/
theorem exec_abort {p : Part} {s : State} (hs : s.InService) (hpace : s.PaceFollows) :
    ∃ t, exec (.abort .u p) s = .next t ∧ t.ctx p = { (s.ctx p).aborted with pace := t.paceOf p } ∧
      t.slots p = Slots.reset ∧ (t.dg = s.restedDomains p ⟨(s.dpart p).bank, none, []⟩ ∧ t.tu = s.tu ∧
        t.hu = (s.setTable p HoldTable.reset).hu) ∧
      Forwarded (.abort .u p) p s t ∧ SameOutsideBoard (s.heard .u) t ∧ CellLogged (.abort .u p) p [] [] s t := by
  have hfollows := heard_paceFollows .u hpace
  have hroot : (s.heard .u).isRoot = false := (heard_isRoot .u s).trans hs.2.1
  have hcleared := ended_cleared (s.heard .u) p
  have hgroot : ((s.heard .u).ended p).isRoot = false := hcleared.isRoot.trans hroot
  have hslows := (hcleared.slows_eq hfollows rfl rfl rfl).2
  have hrec : Recording [] [] [] (repace p ((s.heard .u).ended p)) (takeCell (.abort .u p) p (s.heard .u)) := by
    have h := ((Recording.start (heard_settled (x := .u) hs.1.2)).map (ended_logBlind p)).settlePace p
    rw [hslows] at h
    exact h
  obtain ⟨t, hx, hctx, hslots, -, hunits, hforward, hframe, hlog⟩ := exec_cleared hs rfl rfl
    (hcleared.toBesideBoard.trans (Beside.repace hgroot p).board)
    (by rw [repace_egress, hcleared.egress, heard_cf]) (paceFollows_repace (hcleared.paceFollowsBut hfollows))
    (fun q hq => by
      rw [repace_ctx, if_neg hq, repace_slots hgroot, if_neg hq, (hcleared.others q hq).1, (hcleared.others q hq).2,
        heard_ctx, heard_slots]
      exact ⟨rfl, rfl⟩) hrec
  have hrepaced := Beside.repace hgroot p
  have hidle : ((s.heard .u).ended p).paceOf p = (((s.heard .u).ended p).ctx p).pace ∨
      (((s.heard .u).ended p).ctx p).state = .idle := .inr (by rw [hcleared.ctx]; rfl)
  rw [repace_of_unreported hidle, hcleared.ctx] at hctx hslots
  refine ⟨t, hx, ?_, ?_, ⟨?_, ?_, ?_⟩, hforward, hframe, hlog⟩
  · rw [hctx, State.ctx_setCtx_self, heard_ctx]
  · rw [hslots, State.slots_setCtx, hcleared.slots, State.paceSlotAfter, State.ctx_setCtx_self, State.slots_setCtx,
      hcleared.slots]
    exact congrArg (fun v => { Slots.reset with pace := v }) (if_pos (Or.inr rfl))
  · rw [hunits.1, hrepaced.dg, ended_eq]
    rfl
  · rw [hunits.2.1, hrepaced.tu, ended_eq]
    rfl
  · rw [hunits.2.2, hrepaced.hu, hcleared.table]
    rfl

/-- The child once a START carrying `e` has cleared the run of `p`, and its pace state and PACE slot have followed. -/
def State.launched (s : State) (p : Part) (e : Nat) : State :=
  ((s.begun p e).setCtx p { (s.begun p e).ctx p with pace := (s.begun p e).paceOf p }).setSlots p
    { Slots.reset with pace := if (s.ctx p).pace then some ((s.begun p e).paceOf p) else none }

/-- What a START records up to the pace state of its partition. -/
theorem Recording.launch {es : List Event} {p : Part} {e : Nat} {s t : State} (h : Recording es [] [] s t)
    (hr : s.isRoot = false) (hpace : s.PaceFollows) :
    Recording es [] [] (s.launched p e) (reportStartPace p (Machine.settlePace p (t.begun p e))) := by
  have hcleared := begun_cleared s p e
  obtain ⟨hdown, hslows⟩ := hcleared.slows_eq hpace rfl rfl rfl
  have hrec := ((h.map (begun_logBlind p e)).settlePace p).map (reportStartPace_logBlind p)
  rw [hslows, reportStartPace_repace (hcleared.isRoot.trans hr) (by rw [hcleared.ctx]; exact nofun)
    (by rw [hcleared.slots]; rfl) hdown, hcleared.slots] at hrec
  rw [State.launched]
  rw [hcleared.ctx] at hrec ⊢
  exact hrec

/-- The child once a START has been taken whole: with epoch 2^40 - 1 it is faulted at once (R65). -/
def State.started (s : State) (p : Part) (e : Nat) : State :=
  if e = freezeMax then (s.launched p e).faulted p .protocol else s.launched p e

/-- No pace state is a source of one. -/
theorem paceOf_setCtx_pace (p q : Part) (s : State) (v : Bool) :
    (s.setCtx p { s.ctx p with pace := v }).paceOf q = s.paceOf q := by
  by_cases h : p = q
  · subst h
    rw [paceOf_setCtx_self]
    rfl
  · exact paceOf_setCtx_ne h s _

section
variable {p : Part} {e : Nat} {s : State}

/-- The context that a START carrying `e` leaves, its pace state and a fault at once apart. -/
def State.startedCtx (s : State) (p : Part) (e : Nat) : Context :=
  { (s.ctx p).started e with prev := tab fun i => if (s.trig i).part = p then none else s.prev p i }

theorem launched_ctx : (s.launched p e).ctx p = { s.startedCtx p e with pace := (s.begun p e).paceOf p } := by
  rw [State.launched, State.ctx_setSlots, State.ctx_setCtx_self, (begun_cleared s p e).ctx]
  rfl

theorem launched_slots : (s.launched p e).slots p =
    { Slots.reset with pace := if (s.ctx p).pace then some ((s.begun p e).paceOf p) else none } :=
  State.slots_setSlots_self _ _ _

theorem launched_paceOf (q : Part) : (s.launched p e).paceOf q = (s.begun p e).paceOf q :=
  paceOf_setCtx_pace p q (s.begun p e) _

theorem launched_others {q : Part} (hq : p ≠ q) :
    (s.launched p e).ctx q = s.ctx q ∧ (s.launched p e).slots q = s.slots q := by
  rw [State.launched, State.ctx_setSlots, State.ctx_setCtx_ne _ _ _ _ hq, State.slots_setSlots_ne _ _ _ _ hq,
    State.slots_setCtx]
  exact (begun_cleared s p e).others q hq

theorem launched_beside : Beside (s.begun p e) (s.launched p e) := ⟨rfl, rfl⟩

theorem launched_paceFollows (h : s.PaceFollows) : (s.launched p e).PaceFollows := fun q => by
  rw [launched_paceOf]
  by_cases hq : p = q
  · subst hq
    rw [launched_ctx]
  · have hbut := (begun_cleared s p e).paceFollowsBut h q hq
    rw [((begun_cleared s p e).others q hq).1] at hbut
    rw [(launched_others hq).1, hbut]

theorem launched_inRun : ((s.launched p e).ctx p).inRun = true := by rw [launched_ctx]; rfl

theorem started_beside : Beside (s.begun p e) (s.started p e) := by
  rw [State.started]
  split
  · exact launched_beside.trans (.faulted _ p .protocol)
  · exact launched_beside

theorem started_egress : (s.started p e).cf.egress = s.cf.egress := by
  rw [State.started, ← (begun_cleared s p e).egress]
  split <;> rfl

theorem started_ctx : (s.started p e).ctx p =
    { s.startedCtx p e with
      state := if e = freezeMax then .faulted else .armed
      fault := if e = freezeMax then some .protocol else none
      pace := (s.begun p e).paceOf p } := by
  rw [State.started]
  split
  · rw [faulted_ctx_self, Context.struck_of_inRun launched_inRun, launched_ctx]
    rfl
  · rw [launched_ctx]
    rfl

theorem started_slots : (s.started p e).slots p =
    { Slots.reset with
      fault := if e = freezeMax then some ⟨.protocol, s.ownAddr, none⟩ else none
      pace := if (s.ctx p).pace then some ((s.begun p e).paceOf p) else none } := by
  rw [State.started]
  split
  · rw [faulted_slots_self, launched_slots, launched_ctx]
    have haddr : (s.launched p e).ownAddr = s.ownAddr := by
      rw [State.ownAddr, launched_beside.lp, (begun_cleared s p e).lp, State.ownAddr]
    rw [haddr]
    rfl
  · rw [launched_slots]
    rfl

theorem started_others {q : Part} (hq : p ≠ q) :
    (s.started p e).ctx q = s.ctx q ∧ (s.started p e).slots q = s.slots q := by
  rw [State.started]
  split
  · rw [faulted_ctx_ne hq, faulted_slots_ne hq]
    exact launched_others hq
  · exact launched_others hq

/-- A fault at once moves no pace state: the hold queue is empty. -/
theorem launched_faulted_paceOf (cause : FaultCause) (q : Part) :
    ((s.launched p e).faulted p cause).paceOf q = (s.launched p e).paceOf q := by
  by_cases hq : p = q
  · subst hq
    have hself : ((s.launched p e).faulted p cause).paceOf p =
        ((s.launched p e).setCtx p (((s.launched p e).ctx p).struck cause)).paceOf p := rfl
    rw [hself, paceOf_setCtx_self, Context.struck_of_inRun launched_inRun]
    unfold State.paceOf
    rw [launched_ctx]
    rfl
  · exact faulted_paceOf_ne hq

theorem started_paceFollows (h : s.PaceFollows) : (s.started p e).PaceFollows := fun q => by
  have hq := launched_paceFollows (p := p) (e := e) h q
  rw [State.started]
  split
  · rw [launched_faulted_paceOf, ← hq]
    by_cases hpq : p = q
    · subst hpq
      rw [faulted_ctx_self, Context.struck_of_inRun launched_inRun]
    · rw [faulted_ctx_ne hpq]
  · exact hq

/-- What a START records before its copies (R65). -/
theorem startCtx_records (h : s.Settled) (hr : s.isRoot = false) (hpace : s.PaceFollows) :
    Recording ((if (s.ctx p).state = .idle then [] else [.restarted]) ++ if e = freezeMax then [.partFault] else []) [] []
      (s.started p e) (startCtx p e s) := by
  have hrestarted : Recording (if (s.ctx p).state = .idle then [] else [.restarted]) [] [] s
      (if (s.ctx p).state = .idle then s else raise .restarted s) := by
    split
    exacts [Recording.start h, (Recording.start h).raise .restarted]
  have hlaunched := hrestarted.launch (p := p) (e := e) hr hpace
  rw [State.started]
  by_cases he : e = freezeMax
  · have hfollows := started_paceFollows (p := p) (e := e) hpace p
    rw [State.started, if_pos he] at hfollows
    have hrec := hlaunched.faultCtx (p := p) (launched_beside.isRoot.trans ((begun_cleared s p e).isRoot.trans hr))
      launched_inRun .protocol
    rw [repace_of_same hfollows.symm, State.slows, ← hfollows, Bool.not_and_self] at hrec
    have htake : startCtx p e s = faultCtx p .protocol (reportStartPace p (Machine.settlePace p
        (State.begun (if (s.ctx p).state = .idle then s else raise .restarted s) p e))) := if_pos he
    rw [if_pos he, htake, if_pos he]
    exact hrec.congr (fun x => by simp [or_comm]) fun _ => Iff.rfl
  · have htake : startCtx p e s = reportStartPace p (Machine.settlePace p
        (State.begun (if (s.ctx p).state = .idle then s else raise .restarted s) p e)) := if_neg he
    rw [if_neg he, htake, if_neg he, List.append_nil]
    exact hlaunched

end

/-- The lines of a partition whose run has been cleared rest, and no other line moves (R102). -/
theorem out_of_restedDomains {p : Part} {d : DomainPart} {s t : State} (h : t.dg = s.restedDomains p d) (i : Fin 16) :
    t.out i =
      if s.onDomainOf (s.out i) p then { s.out i with level := (s.out i).rest, pin := (s.out i).rest } else s.out i := by
  rw [State.out, h, State.restedDomains, look_tab]
  rfl

/-- The PACE slot of a START, written at the pace state `w`, once the copies have let it go on to `v`. -/
theorem startSlot_eq {old w v : Bool} (hdown : w = true → old = true) (htoward : v = w ∨ v = false) :
    (if v = w then if old then some w else none else some v) = if old then some v else none := by
  by_cases hv : v = w
  · rw [if_pos hv, hv]
  · have hw : w = true := by
      rw [htoward.resolve_left hv] at hv
      exact (Bool.not_eq_false w).mp (Ne.symm hv)
    rw [if_neg hv, if_pos (hdown hw)]

/-- A START at a child in service. -/
theorem exec_start {p : Part} {e : Nat} {s : State} (hs : s.InService) (hpace : s.PaceFollows) :
    ∃ t, exec (.start .u p e) s = .next t ∧
      t.ctx p = { s.startedCtx p e with
        state := if e = freezeMax then .faulted else .armed
        fault := if e = freezeMax then some .protocol else none
        pace := t.paceOf p } ∧
      t.slots p = { Slots.reset with
        fault := if e = freezeMax then some ⟨.protocol, s.ownAddr, none⟩ else none
        pace := if (s.ctx p).pace then some (t.paceOf p) else none } ∧
      (t.dg = s.restedDomains p ⟨false, none, []⟩ ∧ t.tu = s.clearedTriggers p ∧
        t.hu = (s.setTable p HoldTable.reset).hu) ∧
      Forwarded (.start .u p e) p s t ∧ SameOutsideBoard (s.heard .u) t ∧
      CellLogged (.start .u p e) p
        ((if (s.ctx p).state = .idle then [] else [.restarted]) ++ if e = freezeMax then [.partFault] else []) [] s t := by
  have hfollows := heard_paceFollows .u hpace
  have hroot : (s.heard .u).isRoot = false := (heard_isRoot .u s).trans hs.2.1
  have hcleared := begun_cleared (s.heard .u) p e
  have hbeside : Beside ((s.heard .u).begun p e) ((s.heard .u).started p e) := started_beside
  have hothers : ∀ q, p ≠ q → ((s.heard .u).started p e).ctx q = s.ctx q ∧
      ((s.heard .u).started p e).slots q = s.slots q := fun q hq => by
    obtain ⟨hc, hsl⟩ := started_others (s := s.heard .u) (e := e) hq
    rw [hc, hsl, heard_ctx, heard_slots]
    exact ⟨rfl, rfl⟩
  obtain ⟨t, hx, hctx, hslots, htoward, ⟨hdg, htu, hhu⟩, hforward, hframe, hlog⟩ := exec_cleared (c := .start .u p e)
    hs rfl rfl (hcleared.toBesideBoard.trans hbeside.board) (started_egress.trans (by rw [heard_cf]))
    (started_paceFollows hfollows) hothers (startCtx_records (heard_settled hs.1.2) hroot hfollows)
  obtain ⟨hdown, -⟩ := hcleared.slows_eq hfollows rfl rfl rfl
  rw [hcleared.ctx] at hdown
  rw [started_ctx] at hctx htoward
  refine ⟨t, hx, hctx, ?_, ⟨?_, ?_, ?_⟩, hforward, hframe, hlog⟩
  · have hnotIdle : (if e = freezeMax then CtxState.faulted else .armed) ≠ .idle := by split <;> decide
    rw [hslots, started_slots]
    unfold State.paceSlotAfter
    rw [started_ctx, started_slots]
    simp only [hnotIdle, or_false, heard_ctx]
    rw [startSlot_eq (old := (s.ctx p).pace) hdown htoward]
    rfl
  · rw [hdg, hbeside.dg, begun_eq]
    rfl
  · rw [htu, hbeside.tu, begun_eq]
    rfl
  · rw [hhu, hbeside.hu, hcleared.table]
    rfl

/-- Settles O36: a START and an ABORT clear the run, and their copies let pace states go to OK. -/
theorem startsAndAbortsTaken : Obligations.StartsAndAbortsTaken := by
  intro p e s hs hpace
  refine ⟨?_, ?_⟩
  · obtain ⟨t, hx, hctx, hslots, ⟨hdg, htu, hhu⟩, hforward, hframe, hlog⟩ := exec_start (p := p) (e := e) hs hpace
    have hdomains : t.dg.slots = s.dg.slots ∧ t.dg.entries = s.dg.entries ∧
        t.dg.parts = upd s.dg.parts p ⟨false, none, []⟩ := by rw [hdg]; exact ⟨rfl, rfl, rfl⟩
    obtain ⟨hbound, hentries, hparts⟩ := hdomains
    exact ⟨t, hx, hctx, hslots, hhu, htu, hbound, hentries, hparts, out_of_restedDomains hdg, hforward, hframe, hlog⟩
  · obtain ⟨t, hx, hctx, hslots, ⟨hdg, htu, hhu⟩, hforward, hframe, hlog⟩ := exec_abort (p := p) hs hpace
    have hdomains : t.dg.slots = s.dg.slots ∧ t.dg.entries = s.dg.entries ∧
        t.dg.parts = upd s.dg.parts p ⟨(s.dpart p).bank, none, []⟩ := by rw [hdg]; exact ⟨rfl, rfl, rfl⟩
    obtain ⟨hbound, hentries, hparts⟩ := hdomains
    exact ⟨t, hx, hctx, hslots, hhu, htu, hbound, hentries, hparts, out_of_restedDomains hdg, hforward, hframe, hlog⟩

end Sys2Proof.Machine
end

section
/-! SUPPORT. The slot of a D port in UP (R52, R54, R55), and the statement about it. -/

namespace Sys2Proof.Machine
open Sys2Proof

/-- Where no pace state is about to go SLOW, following raises nothing (R84). -/
theorem settlePaces_of_quiet {s : State} (h : ∀ q, s.slows q = false) :
    Machine.settlePaces s = repaces allParts s := by
  have hfold : ∀ (l : List Part) (u : State), (∀ q, u.slows q = false) →
      l.foldl (fun v p => settlePace p v) u = repaces l u := by
    intro l
    induction l with
    | nil => exact fun _ _ => rfl
    | cons p l ih =>
      intro u hu
      have hquiet : ∀ q, (repace p u).slows q = false := fun q => by
        have hq := hu q
        unfold State.slows at hq ⊢
        rw [repace_paceOf, repace_ctx]
        split
        · exact Bool.not_and_self _
        · exact hq
      rw [List.foldl_cons, settlePace_eq, hu p, repaces_cons]
      exact ih _ hquiet
  exact hfold allParts s h

/-- A shorter step queue lets pace states go to OK, and raises nothing (R54, R84). -/
theorem shrinkSteps_eq {n : Dn} {l : List StepCopy} {s : State} (h : s.PaceFollows) : shrinkSteps n l s =
    repaces allParts (s.setEgress n
      { s.egress n with steps := l, backedUp := (s.egress n).backedUp && decide (4 < l.length) }) := by
  refine settlePaces_of_quiet fun q => ?_
  have hto := paceOf_setEgress (d := false) (s := s) (n := n)
    (g := { s.egress n with steps := l, backedUp := (s.egress n).backedUp && decide (4 < l.length) }) q (by
      cases (s.egress n).backedUp
      · exact .inl rfl
      · by_cases hl : 4 < l.length
        · exact .inl (decide_eq_true hl)
        · exact .inr (decide_eq_false hl))
  unfold State.slows
  rw [show ((s.setEgress n _).ctx q).pace = (s.ctx q).pace from rfl, h q]
  rcases hto with e | e <;> rw [e] <;> simp

/-- What recomputed pace states leave of a state, contexts, forwarder and root records apart. -/
theorem repaces_rest (l : List Part) (s : State) : (repaces l s).lp = s.lp ∧ (repaces l s).now = s.now ∧
    (repaces l s).own = s.own := by
  have h := (repaces_frame l s).1
  exact ⟨congrArg (fun u => u.lp) h, congrArg (fun u => u.now) h, congrArg (fun u => u.own) h⟩

/-- The slot of a D port in UP whose slot is due. -/
theorem exec_slotD_up {n : Dn} {s : State} (hs : s.Ready) (htx : s.transmits (.d n) = true)
    (hup : (s.port (.d n)).state = .up) (hdue : (s.port (.d n)).nextSlot ≤ s.now) (hown : (upSlotD n s).own = s.own) :
    exec (.dPortCellSlot n) s = .next (upSlotD n s) := by
  have hact : slotD n s = upSlotD n s := by simp [slotD, htx, hdue, hup]
  rw [← hact] at hown ⊢
  exact event_of_settled hs (settled_of_own hs.2 hown)

section
variable {n : Dn} {s : State}

theorem upSlotD_run {u : RunCell} {us : List RunCell} (he : (s.dlink n).enumWaiting = false)
    (hu : (s.egress n).urgent = u :: us) : upSlotD n s =
      sendCell (.d n) (.run u.part u.run) (s.setEgress n { s.egress n with urgent := us }) := by
  simp [upSlotD, he, hu]

theorem upSlotD_step {c : StepCopy} {cs : List StepCopy} (he : (s.dlink n).enumWaiting = false)
    (hu : (s.egress n).urgent = []) (hc : (s.egress n).steps = c :: cs) : upSlotD n s =
      sendCell (.d n) (.step c.part c.step (s.ageOut c)) (shrinkSteps n cs s) := by
  simp [upSlotD, he, hu, hc]

theorem upSlotD_mgmt {r : Request} {rs : List Request} (he : (s.dlink n).enumWaiting = false)
    (hu : (s.egress n).urgent = []) (hc : (s.egress n).steps = []) (hm : (s.egress n).mgmt = r :: rs) :
    upSlotD n s = sendCell (.d n) (.mreq r) (s.setEgress n { s.egress n with mgmt := rs }) := by
  simp [upSlotD, he, hu, hc, hm]

theorem upSlotD_idle (he : (s.dlink n).enumWaiting = false) (hu : (s.egress n).urgent = [])
    (hc : (s.egress n).steps = []) (hm : (s.egress n).mgmt = []) : upSlotD n s = sendCell (.d n) .idle s := by
  simp [upSlotD, he, hu, hc, hm]

/-- The slot of a D port in UP leaves nothing to place. -/
theorem upSlotD_own (hpace : s.PaceFollows) : (upSlotD n s).own = s.own := by
  cases he : (s.dlink n).enumWaiting
  · cases hu : (s.egress n).urgent with
    | cons u us => rw [upSlotD_run he hu]; rfl
    | nil =>
      cases hc : (s.egress n).steps with
      | cons c cs =>
        rw [upSlotD_step he hu hc, shrinkSteps_eq hpace]
        exact (repaces_rest _ _).2.2
      | nil =>
        cases hm : (s.egress n).mgmt with
        | cons r rs => rw [upSlotD_mgmt he hu hc hm]; rfl
        | nil => rw [upSlotD_idle he hu hc hm]; rfl
  · simp only [upSlotD, he, if_true]
    rfl

end

theorem sendEnum_eq (n : Dn) (s : State) : sendEnum n s =
    (s.setPort (.d n) { s.port (.d n) with
      sent := some (.enum (s.childAddr n) (s.lp.depth.getD 0 + 1) (s.port (.d n)).pathLat), nextSlot := s.now + 2 }).setDLink
        n { s.dlink n with enumWaiting := false, refreshFrom := s.now } := by
  unfold sendEnum sendCell
  dsimp only
  rw [State.dlink_setPort]
  rfl

/-- A cell that leaves link `n` as its queues go to `g`, the pace states following. -/
theorem stepSent (n : Dn) (g : Egress) (c : Cell) (s : State) :
    let t := sendCell (.d n) c (repaces allParts (s.setEgress n g))
    let sent := s.setPort (.d n) { s.port (.d n) with sent := some c, nextSlot := s.now + 2 }
    t.port (.d n) = sent.port (.d n) ∧ t.egress n = g ∧ (∀ k : Fin 6, k ≠ n → t.egress k = s.egress k) ∧
    (∀ q : Fin 4, t.ctx q = { s.ctx q with pace := t.paceOf q } ∧
      (s.isRoot = false → t.slots q = { s.slots q with pace := s.paceSlotAfter q (t.paceOf q) }) ∧
      (s.isRoot = true → t.slots q = s.slots q ∧ t.rootRec q =
        { s.rootRec q with
          slow :=
            if t.paceOf q = (s.ctx q).pace ∨ (s.ctx q).state = .idle then (s.rootRec q).slow else t.paceOf q })) ∧
    (s.isRoot = false → t.rc = s.rc) ∧ ((t.setPse s.pse).setCf s.cf).setRc s.rc = sent ∧
    SameStores s t ∧ t.cf.noteQ = s.cf.noteQ := by
  intro t sent
  obtain ⟨x, hx⟩ : ∃ x, x = s.setEgress n g := ⟨_, rfl⟩
  obtain ⟨u, hu⟩ : ∃ u, u = repaces allParts x := ⟨_, rfl⟩
  obtain ⟨hframe, hcf, hrc, hroot⟩ := repaces_frame allParts x
  obtain ⟨hlp, hnow, -⟩ := repaces_rest allParts x
  rw [← hu] at hframe hcf hrc hroot hlp hnow
  have ht : t = u.setPort (.d n) { s.port (.d n) with sent := some c, nextSlot := s.now + 2 } := by
    have hport : u.port (.d n) = s.port (.d n) := by rw [State.port, hlp, hx]; rfl
    have hclock : u.now = s.now := by rw [hnow, hx]; rfl
    rw [show t = sendCell (.d n) c u by rw [hu, hx], sendCell, hport, hclock]
  have hrole : x.isRoot = s.isRoot := by rw [hx]; rfl
  have hegress : ∀ k, t.egress k = x.egress k := fun k => by
    rw [show t.egress k = u.egress k by rw [ht]; rfl, hu, repaces_egress]
  have hpaceOf : ∀ q, t.paceOf q = x.paceOf q := fun q => by
    rw [show t.paceOf q = u.paceOf q by rw [ht]; rfl, hu, repaces_paceOf]
  have hctx : ∀ q, t.ctx q = { x.ctx q with pace := x.paceOf q } := fun q => by
    rw [show t.ctx q = u.ctx q by rw [ht]; rfl, hu, repaces_ctx, if_pos (mem_allParts q)]
  have hslots : s.isRoot = false → ∀ q, t.slots q = { x.slots q with pace := x.paceSlotAfter q (x.paceOf q) } :=
    fun h q => by
      rw [show t.slots q = u.slots q by rw [ht]; rfl, hu, repaces_slots q (by decide) (hrole.trans h),
        if_pos (mem_allParts q)]
  have hrecords : s.isRoot = true → ∀ q, t.rootRec q = { x.rootRec q with slow := x.slowAfter q (x.paceOf q) } :=
    fun h q => by
      rw [show t.rootRec q = u.rootRec q by rw [ht]; rfl, hu, repaces_rootRec q (by decide) (hrole.trans h),
        if_pos (mem_allParts q)]
  have htcf : t.cf = { x.cf with slots := t.cf.slots } := by rw [ht]; exact hcf
  refine ⟨?_, ?_, fun k hk => ?_, fun q => ⟨?_, fun h => ?_, fun h => ⟨?_, ?_⟩⟩, fun h => ?_, ?_, ⟨?_, ?_, ?_⟩, ?_⟩
  · rw [ht, State.port_setPort_self]
    exact (State.port_setPort_self s _ _).symm
  · rw [hegress, hx, State.egress_setEgress_self]
  · rw [hegress, hx, State.egress_setEgress_ne _ _ _ _ hk.symm]
  · rw [hctx, hpaceOf, hx]
    rfl
  · rw [hslots h, hpaceOf, hx]
    rfl
  · have hslots' : t.cf.slots = s.cf.slots := by
      rw [ht, State.setPort_cf, hroot (hrole.trans h), hx]
      rfl
    rw [State.slots, hslots', State.slots]
  · rw [hrecords h, hpaceOf, hx]
    rfl
  · rw [ht, State.setPort_rc, hrc (hrole.trans h), hx]
    rfl
  · have hrest : ((u.setPse s.pse).setCf s.cf).setRc s.rc = s := by
      have h : ((((u.setPse x.pse).setCf x.cf).setCf s.cf).setRc s.rc) = ((x.setRc u.rc).setCf s.cf).setRc s.rc := by
        rw [hframe]
      rw [hx] at h
      exact h
    calc ((t.setPse s.pse).setCf s.cf).setRc s.rc
        = (((u.setPse s.pse).setCf s.cf).setRc s.rc).setPort (.d n)
            { s.port (.d n) with sent := some c, nextSlot := s.now + 2 } := by rw [ht]; rfl
      _ = sent := by rw [hrest]
  · rw [htcf, hx]
    rfl
  · rw [htcf, hx]
    rfl
  · rw [htcf, hx]
    rfl
  · rw [htcf, hx]
    rfl

/-- Settles O42: the queues in their order; only the departure of a STEP moves pace states, and those to OK. -/
theorem downSlotsServe : Obligations.DownSlotsServe := by
  intro n s hs hpace htx hup hdue
  refine ⟨_, exec_slotD_up hs htx hup hdue (upSlotD_own hpace), ?_⟩
  intro g sends
  cases he : (s.dlink n).enumWaiting
  · rw [if_neg (by decide)]
    refine ⟨fun u hu => ?_, fun hu => ⟨fun c hc => ?_, fun hc => ⟨fun r hr => ?_, fun hm => ?_⟩⟩⟩
    · obtain ⟨us, hus⟩ := List.head?_eq_some_iff.mp hu
      have htail : g.urgent.tail = us := congrArg List.tail hus
      rw [upSlotD_run he hus, htail]
      rfl
    · obtain ⟨cs, hcs⟩ := List.head?_eq_some_iff.mp hc
      have htail : g.steps.tail = cs := congrArg List.tail hcs
      rw [upSlotD_step he hu hcs, shrinkSteps_eq hpace, htail]
      exact stepSent _ _ _ _
    · obtain ⟨rs, hrs⟩ := List.head?_eq_some_iff.mp hr
      have htail : g.mgmt.tail = rs := congrArg List.tail hrs
      rw [upSlotD_mgmt he hu hc hrs, htail]
      rfl
    · exact upSlotD_idle he hu hc hm
  · rw [if_pos rfl]
    simp only [upSlotD, he, if_true]
    exact sendEnum_eq n s

end Sys2Proof.Machine
end

section
/-! SUPPORT. The taking of a management request and its answer (R159, R160, R12, R59), and the writes to ROUTE, DOMAIN_SLOT,
DOMAIN_ENTRY and ROOT_PARTITION (R44, R89, R91, R92, R139), with the statement about them. -/

namespace Sys2Proof.Machine
open Sys2Proof

/-! Answers -/

/-- A hub with the role, upstream port and response queue of `s`, with nothing more to place: it answers where `s` does. -/
structure AnswersLike (s e : State) : Prop where
  own : e.own = s.own
  isRoot : e.isRoot = s.isRoot
  lp : e.lp = s.lp
  respQ : e.cf.respQ = s.cf.respQ

namespace AnswersLike
variable {s e : State} {r : Request}

theorem takeHead (s : State) : AnswersLike s (takeHead s) := ⟨rfl, rfl, rfl, rfl⟩

theorem upstreamOpen (h : AnswersLike s e) : e.upstreamOpen = s.upstreamOpen := by
  rw [State.upstreamOpen, h.isRoot, State.isUp, State.port, h.lp, State.upstreamOpen]
  rfl

theorem dropsAnswer (h : AnswersLike s e) : e.dropsAnswer r = s.dropsAnswer r := by
  rw [State.dropsAnswer, h.upstreamOpen, h.respQ, State.dropsAnswer]

end AnswersLike

section
variable {s e t : State} {r : Request} {st : Status} {v : Nat}

/-- The answer joins the response queue, is wanted or discarded by none, or is dropped and counted (R59, R160, R38). -/
theorem respond_eq (r : Request) (st : Status) (v : Nat) (e : State) : respond r ⟨e, st, v⟩ =
    if e.dropsAnswer r = [] then e.answersWith r st v else bump .u kResponseDrop e := by
  unfold respond State.dropsAnswer State.answersWith
  cases hn : r.noResponse
  · rcases placeResponse_cases (e.responseTo r st v) e with ⟨ho, hp⟩ | ⟨ho, hl, hp⟩ | ⟨ho, hl, hp⟩
    · simp [ho, hp]
    · simp [ho, hp, hl]
    · simp [ho, hp, hl]
  · simp

theorem dropsAnswer_cases (e : State) (r : Request) :
    e.dropsAnswer r = [] ∨ e.dropsAnswer r = [(.u, kResponseDrop)] ∧ ∀ st v, e.answersWith r st v = e := by
  unfold State.dropsAnswer State.answersWith
  by_cases h : 8 ≤ e.cf.respQ.length
  · cases r.noResponse <;> cases e.upstreamOpen <;> simp [h]
  · simp [h]

theorem answersWith_logBlind (r : Request) (st : Status) (v : Nat) : LogBlind fun e => e.answersWith r st v := by
  refine LogBlind.of_commutes (fun s => ?_) (fun s => ?_) (fun s => ?_) (fun s => ?_) fun s => ?_
  · have hopen : s.sansLog.upstreamOpen = s.upstreamOpen := rfl
    have hqueue : s.sansLog.cf.respQ = s.cf.respQ := rfl
    unfold State.answersWith
    rw [hopen, hqueue]
    split <;> rfl
  all_goals
    unfold State.answersWith
    split <;> rfl

/-- What answering records beside what is recorded. -/
theorem Recording.respond {es : List Event} {hs : List (Fin 3)} (h : Recording es [] hs e t) (r : Request)
    (st : Status) (v : Nat) :
    Recording es (e.dropsAnswer r) hs (e.answersWith r st v) (Machine.respond r ⟨t, st, v⟩) := by
  have hdrops : t.dropsAnswer r = e.dropsAnswer r :=
    congrArg (fun u => u.dropsAnswer r) (show t.sansLog = e.sansLog from h.sansLog_eq)
  rw [respond_eq, hdrops]
  rcases dropsAnswer_cases e r with hd | ⟨hd, hsame⟩
  · rw [if_pos hd, hd]
    exact h.map (answersWith_logBlind r st v)
  · rw [if_neg (by rw [hd]; exact nofun), hd, hsame]
    exact h.bump (by simp)

/-- A request that the agent takes and that no other row names is executed and answered (R160). -/
theorem exec_managementWrite (hs : s.Takes .managementWrite r) :
    exec (.managementWrite r) s = .next (settle (Machine.respond r (executeOther r (takeHead s)))) := by
  obtain ⟨hready, hmay, hrow, hrefusal⟩ := hs
  have hrefusal' : (takeHead s).refusal r = none := hrefusal
  have hact : agentTakes .managementWrite r (executeOther r) s = Machine.respond r (executeOther r (takeHead s)) := by
    simp [agentTakes, hmay, hrow, judge, hrefusal']
  rw [← hact]
  exact event_of_ready _ hready

/-- An outcome as the model's answer. -/
def asAnswer (o : Outcome) : Answer := ⟨o.1, o.2.1, o.2.2⟩

/-- A request whose rule gives the outcome `o` has that outcome. -/
theorem answersAs_of {o : Outcome} (hs : s.Takes .managementWrite r) (ho : executeOther r (takeHead s) = asAnswer o)
    (hlike : AnswersLike s o.1) : AnswersAs (.managementWrite r) r s o := by
  have hset : o.1.Settled := settled_of_own hs.1.2 hlike.own
  refine ⟨_, exec_managementWrite hs, ?_⟩
  rw [ho, asAnswer, ← hlike.dropsAnswer]
  rcases dropsAnswer_cases o.1 r with hd | ⟨hd, hsame⟩
  · rw [if_pos hd, respond_eq, if_pos hd]
    refine settle_of_settled (settled_of_own hset ?_)
    exact (answersWith_logBlind r _ _).own o.1
  · rw [if_neg (by rw [hd]; exact nofun)]
    have hrec := (Recording.start hset).respond r o.2.1 o.2.2
    rw [hsame] at hrec
    exact hrec.settle

end


/-! The writes, rule by rule -/

/-- A rule's answer is the outcome `o`, of a hub that answers where `s` does. -/
def Gives (s : State) (a : Answer) (o : Outcome) : Prop := a = asAnswer o ∧ AnswersLike s o.1

section
variable {s e : State} {st : Status} {v w : Nat}

theorem gives_declined (h : AnswersLike s e) : Gives s (refused e st) (e.declines st) := ⟨rfl, h⟩

theorem gives_clamped (h : AnswersLike s e) : Gives s (clamped e v w) (e.holds v w) := ⟨rfl, h⟩

theorem gives_taken (h : AnswersLike s e) : Gives s (taken e v) (e.holds v v) :=
  ⟨by simp [taken, asAnswer, State.holds], h⟩

/-- A test that rule and outcome share. -/
theorem gives_ite {c d : Prop} [Decidable c] [Decidable d] {a b : Answer} {o q : Outcome} (hcd : c ↔ d)
    (ht : d → Gives s a o) (hf : ¬d → Gives s b q) : Gives s (if c then a else b) (if d then o else q) := by
  by_cases h : d
  · rw [if_pos (hcd.mpr h), if_pos h]
    exact ht h
  · rw [if_neg (fun hc => h (hcd.mp hc)), if_neg h]
    exact hf h

/-- A range check that the rule states as what it takes, the outcome as what it refuses. -/
theorem gives_check {c d : Prop} [Decidable c] [Decidable d] {a b : Answer} {o q : Outcome} (hcd : c ↔ ¬d)
    (ht : d → Gives s b o) (hf : ¬d → Gives s a q) : Gives s (if c then a else b) (if d then o else q) := by
  rw [← ite_not]
  exact gives_ite (not_congr hcd |>.trans not_not) ht hf

end

theorem busy_iff (s : State) (p : Part) : (!s.idleAt p) = true ↔ (s.ctx p).state ≠ .idle := by
  simp [State.idleAt]

theorem namesBusy_iff (s : State) (v : Nat) :
    s.namesBusy v = true ↔ v ≤ 3 ∧ (s.ctx (Fin.ofNat 4 v)).state ≠ .idle := by
  unfold State.namesBusy
  split
  · next h =>
    have hv : Fin.ofNat 4 v = ⟨v, h⟩ := Fin.ext (Nat.mod_eq_of_lt h)
    rw [busy_iff, hv]
    exact ⟨fun hs => ⟨by omega, hs⟩, fun hs => hs.2⟩
  · next h => simp; omega

section
variable (s : State) (p : Part) (i : Fin 16) (b : Bool) (f v : Nat)

/-- A write to ROUTE that gives no link mask (R44). -/
theorem writeRoute_gives (h : f = 1 ∨ 63 < v ∨ (s.ctx p).state ≠ .idle) : Gives s (writeRoute p f v (takeHead s))
    (if (s.ctx p).state ≠ .idle then (takeHead s).declines .inUse
      else if (if f = 0 then 63 else 1) < v then (takeHead s).declines .badValue
      else ((takeHead s).setRoute p { s.route p with isLocal := v == 1 }).holds v v) := by
  refine gives_ite (busy_iff _ p) (fun _ => gives_declined (.takeHead s)) fun hidle => ?_
  cases f with
  | zero =>
    have hv : 63 < v := by
      rcases h with h | h | h
      exacts [absurd h (by decide), h, absurd h hidle]
    dsimp only
    rw [if_neg (by omega), if_pos rfl, if_pos hv]
    exact gives_declined (.takeHead s)
  | succ f =>
    dsimp only
    rw [if_neg (Nat.succ_ne_zero f)]
    exact gives_check not_lt.symm (fun _ => gives_declined (.takeHead s)) fun _ => gives_taken ⟨rfl, rfl, rfl, rfl⟩

/-- A write to DOMAIN_SLOT (R89). -/
theorem writeDomainSlot_gives : Gives s (writeDomainSlot i v (takeHead s))
    (if (s.ctx (look s.dg.slots i)).state ≠ .idle ∨ (v ≤ 3 ∧ (s.ctx (Fin.ofNat 4 v)).state ≠ .idle) then
        (takeHead s).declines .inUse
      else if 3 < v then (takeHead s).declines .badValue
      else ((takeHead s).setDg { s.dg with slots := upd s.dg.slots i (Fin.ofNat 4 v) }).holds v v) := by
  refine gives_ite ?_ (fun _ => gives_declined (.takeHead s)) fun _ => ?_
  · rw [Bool.or_eq_true, busy_iff, namesBusy_iff]
    rfl
  · by_cases hv : v < 4
    · have hfin : Fin.ofNat 4 v = ⟨v, hv⟩ := Fin.ext (Nat.mod_eq_of_lt hv)
      rw [dif_pos hv, if_neg (by omega), hfin]
      exact gives_taken ⟨rfl, rfl, rfl, rfl⟩
    · rw [dif_neg hv, if_pos (by omega)]
      exact gives_declined (.takeHead s)

theorem entryIndex_slot : Fin.ofNat 16 (entryIndex b i).val = i := by
  apply Fin.ext
  have hi := i.isLt
  cases b <;> simp [entryIndex, Fin.ofNat]

theorem entryIndex_bank : decide (16 ≤ (entryIndex b i).val) = b := by
  have hi := i.isLt
  cases b <;> simp [entryIndex]

theorem entryInUse_iff : s.entryInUse (entryIndex b i) = true ↔
    (s.dpart (look s.dg.slots i)).bank = b ∧ (s.ctx (look s.dg.slots i)).state ≠ .idle := by
  simp only [State.entryInUse, entryIndex_slot, entryIndex_bank, Bool.and_eq_true, busy_iff, beq_iff_eq]

/-- A write to DOMAIN_ENTRY (R91, R92). -/
theorem writeDomainEntry_gives :
    let held := look s.dg.slots i
    let e := look s.dg.entries (entryIndex b i)
    let put (q : DomainEntry) := (takeHead s).setDg { s.dg with entries := upd s.dg.entries (entryIndex b i) q }
    Gives s (writeDomainEntry (entryIndex b i) f v (takeHead s))
      (if (s.dpart held).bank = b ∧ (s.ctx held).state ≠ .idle then (takeHead s).declines .inUse
      else if f = 0 then
        if v ≤ 2 then (put { e with mode := if v = 0 then .clock else if v = 1 then .heldLow else .heldHigh }).holds v v
        else (takeHead s).declines .badValue
      else if f = 1 then
        if 2 ≤ v ∧ v ≤ 65535 then (put { e with period := v }).holds v v else (takeHead s).declines .badValue
      else if f = 2 then (put { e with phase := min 65535 v }).holds v (min 65535 v)
      else if f = 3 then (put { e with duty := max 1 (min 63 v) }).holds v (max 1 (min 63 v))
      else if v ≤ 1 then (put { e with anchorSwap := v == 1 }).holds v v
      else (takeHead s).declines .badValue) := by
  intro held e put
  have hput : ∀ q, AnswersLike s (put q) := fun q => ⟨rfl, rfl, rfl, rfl⟩
  have hbad : Gives s (refused (takeHead s) .badValue) ((takeHead s).declines .badValue) := gives_declined (.takeHead s)
  refine gives_ite (entryInUse_iff (takeHead s) i b) (fun _ => gives_declined (.takeHead s)) fun _ => ?_
  match f with
  | 0 =>
    match v with
    | 0 => exact gives_taken (hput _)
    | 1 => exact gives_taken (hput _)
    | 2 => exact gives_taken (hput _)
    | v + 3 =>
      rw [if_pos (show 0 = 0 from rfl), if_neg (show ¬v + 3 ≤ 2 by omega)]
      exact hbad
  | 1 =>
    rw [if_neg (show ¬1 = 0 by decide), if_pos (show 1 = 1 from rfl)]
    exact gives_ite Iff.rfl (fun _ => gives_taken (hput _)) fun _ => hbad
  | 2 => exact gives_clamped (hput _)
  | 3 => exact gives_clamped (hput _)
  | f + 4 =>
    rw [if_neg (show ¬f + 4 = 0 by omega), if_neg (show ¬f + 4 = 1 by omega), if_neg (show ¬f + 4 = 2 by omega),
      if_neg (show ¬f + 4 = 3 by omega)]
    exact gives_ite Iff.rfl (fun _ => gives_taken (hput _)) fun _ => hbad

/-- A write to ROOT_PARTITION (R139). -/
theorem writeRoot_gives (hf : 6 ≤ f ∧ f ≤ 13) :
    let q := s.rootRec p
    Gives s (writeRoot p f v (takeHead s))
      (if (f = 6 ∨ f = 7) ∧ q.state ≠ .idle then (takeHead s).declines .inUse
        else if ((f = 6 ∨ f = 9) ∧ 255 < v) ∨ (f = 13 ∧ 15 < v) then (takeHead s).declines .badValue
        else if f = 6 then ((takeHead s).setRootRec p { q with epoch := hiReplaced q.epoch v }).holds v v
        else if f = 7 then ((takeHead s).setRootRec p { q with epoch := loReplaced q.epoch v }).holds v v
        else if f = 8 then ((takeHead s).setRootRec p { q with count := v }).holds v v
        else if f = 9 then ((takeHead s).setRootRec p { q with swapStep := hiReplaced q.swapStep v }).holds v v
        else if f = 10 then ((takeHead s).setRootRec p { q with swapStep := loReplaced q.swapStep v }).holds v v
        else if f = 11 then
          ((takeHead s).setRootRec p { q with period := max 256 (min 1048575 v) }).holds v (max 256 (min 1048575 v))
        else if f = 12 then
          ((takeHead s).setRootRec p { q with lead := max 1 (min 4095 v) }).holds v (max 1 (min 4095 v))
        else ((takeHead s).setRootRec p { q with haltMask := BitVec.ofNat 4 v }).holds v v) := by
  intro q
  have hput : ∀ x, AnswersLike s ((takeHead s).setRootRec p x) := fun x => ⟨rfl, rfl, rfl, rfl⟩
  have hbad : Gives s (refused (takeHead s) .badValue) ((takeHead s).declines .badValue) := gives_declined (.takeHead s)
  have hbusy : Gives s (refused (takeHead s) .inUse) ((takeHead s).declines .inUse) := gives_declined (.takeHead s)
  obtain ⟨hlow, hhigh⟩ := hf
  interval_cases f
  · exact gives_ite (by simp [q]; rfl) (fun _ => hbusy) fun _ =>
      gives_check (by simp) (fun _ => hbad) fun _ => gives_taken (hput _)
  · refine gives_ite (by simp [q]; rfl) (fun _ => hbusy) fun _ => ?_
    rw [if_neg (by simp)]
    exact gives_taken (hput _)
  · rw [if_neg (by simp), if_neg (by simp)]
    exact gives_taken (hput _)
  · rw [if_neg (by simp)]
    exact gives_check (by simp) (fun _ => hbad) fun _ => gives_taken (hput _)
  · rw [if_neg (by simp), if_neg (by simp)]
    exact gives_taken (hput _)
  · rw [if_neg (by simp), if_neg (by simp)]
    exact gives_clamped (hput _)
  · rw [if_neg (by simp), if_neg (by simp)]
    exact gives_clamped (hput _)
  · rw [if_neg (by simp)]
    exact gives_check (by simp) (fun _ => hbad) fun _ => gives_taken (hput _)

end


/-! The rule that a request's object names -/

section
variable {r : Request} {p : Part} {i : Fin 16} {b : Bool} (s : State)

theorem executeOther_route (hop : r.op = .write) (hobj : r.object = 0x04#8) (hidx : r.index.toNat = p.val) :
    executeOther r s = writeRoute p r.field.toNat r.value.toNat s := by
  have hp : Fin.ofNat 4 r.index.toNat = p := by rw [hidx]; exact Fin.ext (Nat.mod_eq_of_lt p.isLt)
  simp only [executeOther, hop, executeWrite, hobj, hp]
  rfl

theorem executeOther_domainSlot (hop : r.op = .write) (hobj : r.object = 0x06#8) (hidx : r.index.toNat = i.val) :
    executeOther r s = writeDomainSlot i r.value.toNat s := by
  have hi : Fin.ofNat 16 r.index.toNat = i := by rw [hidx]; exact Fin.ext (Nat.mod_eq_of_lt i.isLt)
  simp only [executeOther, hop, executeWrite, hobj, hi]
  rfl

theorem executeOther_domainEntry (hop : r.op = .write) (hobj : r.object = 0x07#8)
    (hidx : r.index.toNat = (if b then 16 else 0) + i.val) :
    executeOther r s = writeDomainEntry (entryIndex b i) r.field.toNat r.value.toNat s := by
  have hi : Fin.ofNat 32 r.index.toNat = entryIndex b i := by
    rw [hidx]
    exact Fin.ext (Nat.mod_eq_of_lt (entryIndex b i).isLt)
  simp only [executeOther, hop, executeWrite, hobj, hi]
  rfl

theorem executeOther_root (hop : r.op = .write) (hobj : r.object = 0x0E#8) (hidx : r.index.toNat = p.val) :
    executeOther r s = writeRoot p r.field.toNat r.value.toNat s := by
  have hp : Fin.ofNat 4 r.index.toNat = p := by rw [hidx]; exact Fin.ext (Nat.mod_eq_of_lt p.isLt)
  simp only [executeOther, hop, executeWrite, hobj, hp]
  rfl

/-- The settings of a root record are its fields 6 to 13 (R139, R160 step 4). -/
theorem root_settings_of_passes {s : State} (hop : r.op = .write) (hobj : r.object = 0x0E#8) (h : s.refusal r = none) :
    6 ≤ r.field.toNat ∧ r.field.toNat ≤ 13 := by
  unfold State.refusal at h
  have hdefined : opDefined r.op r.object.toNat r.field.toNat = true := by
    by_contra hd
    rw [Bool.not_eq_true] at hd
    simp only [hd, Bool.not_false, if_true] at h
    split_ifs at h
  simpa [opDefined, hop, hobj, writable] using hdefined

end

/-! A link mask -/

theorem answersWith_frame (e : State) (r : Request) (st : Status) (v : Nat) :
    e.answersWith r st v = e.setCf { e.cf with respQ := (e.answersWith r st v).cf.respQ } := by
  unfold State.answersWith
  split <;> rfl

theorem AnswersLike.answersWith_respQ {s e : State} (h : AnswersLike s e) (r : Request) (st : Status) (v : Nat) :
    (e.answersWith r st v).cf.respQ = (s.answersWith r st v).cf.respQ := by
  have hresponse : e.responseTo r st v = s.responseTo r st v := by
    rw [State.responseTo, State.ownAddr, h.lp]
    rfl
  unfold State.answersWith
  rw [h.upstreamOpen, h.respQ, hresponse]
  split
  · exact h.respQ
  · rfl

/-- A link mask given to the partition of an IDLE context: its pace state follows, and no PACE slot is written (R44, R84). -/
theorem exec_writeMask {r : Request} {p : Part} {s : State} (hs : s.Takes .managementWrite r) (hop : r.op = .write)
    (hobj : r.object = 0x04#8) (hidx : r.index.toNat = p.val) (hf : r.field.toNat = 0) (hv : r.value.toNat ≤ 63)
    (hidle : (s.ctx p).state = .idle) :
    let x := (takeHead s).setRoute p { s.route p with mask := BitVec.ofNat 6 r.value.toNat }
    let e := x.setCtx p { s.ctx p with pace := x.paceOf p }
    ∃ t, exec (.managementWrite r) s = .next t ∧
      SameButLog (paceEvents x e) (s.dropsAnswer r) [] (e.answersWith r .ok r.value.toNat) t := by
  intro x e
  have hx : x.Settled := settled_of_own hs.1.2 rfl
  have hlike : AnswersLike s e := ⟨rfl, rfl, rfl, rfl⟩
  have he : repace p x = e := repace_of_unreported (.inr hidle)
  have hrule : executeOther r (takeHead s) = taken (Machine.settlePace p x) r.value.toNat := by
    have hbusy : (takeHead s).idleAt p = true := beq_iff_eq.mpr hidle
    rw [executeOther_route _ hop hobj hidx, hf, writeRoute, hbusy]
    exact if_pos hv
  have hpaced : Recording (paceEvents x e) [] [] e (Machine.settlePace p x) := by
    have h := (Recording.start hx).settlePace p
    rw [he] at h
    refine h.congr (fun y => ?_) fun _ => Iff.rfl
    rw [List.append_nil, slows_iff_paceEvents, he]
  have hanswered := hpaced.respond r .ok r.value.toNat
  rw [hlike.dropsAnswer] at hanswered
  exact ⟨_, exec_managementWrite hs, by rw [hrule]; exact hanswered.settle⟩

/-- What is logged over a state with the latches and counters of `s` is logged over `s`. -/
theorem Logged.of_same {es : List Event} {cs : List (PortId × Fin 8)} {hs : List (Fin 3)} {s u t : State}
    (h : Logged es cs hs u t) (hlp : u.lp = s.lp) (hlatches : u.ma.latches = s.ma.latches)
    (hcounters : u.ma.counters = s.ma.counters) : Logged es cs hs s t := by
  have hport : ∀ x, u.port x = s.port x := fun x => by cases x <;> simp only [State.port, hlp]
  simpa only [Logged, State.latched, State.hubCounter, State.counter, hlatches, hcounters, hport] using h

/-- What a link mask leaves: the route, the pace state and the answer. -/
theorem writeMask_leaves {r : Request} {p : Part} {s t : State} {mask : BitVec 6} {v : Nat} {x e : State}
    (hx : x = (takeHead s).setRoute p { s.route p with mask := mask })
    (he : e = x.setCtx p { s.ctx p with pace := x.paceOf p }) (ht : SettledAs (e.answersWith r .ok v) t) :
    t.route p = { s.route p with mask := mask } ∧ (∀ q : Fin 4, q ≠ p → t.route q = s.route q) ∧
    t.cf.egress = s.cf.egress ∧ t.cf.slots = s.cf.slots ∧
    t.pse = upd s.pse p { s.ctx p with pace := t.paceOf p } ∧
    (t.sansLog.setPse s.pse).setCf s.cf = (takeHead s).sansLog.setCf s.cf ∧
    t.cf.respQ = (s.answersWith r .ok v).cf.respQ ∧ paceEvents s t = paceEvents x e := by
  have hframe := answersWith_frame e r .ok v
  have hlike : AnswersLike s e := by rw [he, hx]; exact ⟨rfl, rfl, rfl, rfl⟩
  have hrespQ := hlike.answersWith_respQ r .ok v
  generalize e.answersWith r .ok v = u at hframe ht hrespQ
  have hroutes : t.cf.routes = upd s.cf.routes p { s.route p with mask := mask } := by
    rw [show t.cf.routes = u.cf.routes from
      congrArg (fun w => w.cf.routes) (show t.sansLog = u.sansLog from ht.sansLog), hframe, he, hx]
    rfl
  have hpace : t.paceOf p = x.paceOf p := by
    have hpu : u.paceOf p = e.paceOf p := by rw [hframe]; rfl
    have hec : s.ctx p = x.ctx p := by rw [hx]; rfl
    rw [ht.paceOf, hpu, he, hec, paceOf_setCtx_pace]
  refine ⟨?_, fun q hq => ?_, ?_, ?_, ?_, ?_, ?_, paceEvents_eq (fun q => by rw [hx]; rfl) fun q => ?_⟩
  · rw [State.route, hroutes, look_upd_self]
  · rw [State.route, hroutes, look_upd_ne _ _ _ _ hq.symm, State.route]
  · rw [show t.cf.egress = u.cf.egress from
      congrArg (fun w => w.cf.egress) (show t.sansLog = u.sansLog from ht.sansLog), hframe, he, hx]
    rfl
  · rw [ht.cfSlots, hframe, he, hx]
    rfl
  · rw [hpace, ht.pse, hframe, he, hx]
    rfl
  · rw [ht.sansLog, hframe, he, hx]
    rfl
  · rw [← hrespQ]
    exact congrArg (fun w => w.cf.respQ) (show t.sansLog = u.sansLog from ht.sansLog)
  · rw [ht.ctx, hframe]
    rfl

/-- Settles O60: each write by the rule of its object, and a link mask by what its pace state records. -/
theorem managementRequests : Obligations.ManagementRequests := by
  intro r p i b s hs
  have hwrites : ∀ {o : Outcome}, Gives s (executeOther r (takeHead s)) o → AnswersAs (.managementWrite r) r s o :=
    fun h => answersAs_of hs h.1 h.2
  refine ⟨fun hop hobj hidx => ⟨fun h => hwrites ?_, fun hf hv hidle => ?_⟩, fun hop hobj hidx => hwrites ?_,
    fun hop hobj hidx => hwrites ?_, fun hop hobj hidx => hwrites ?_⟩
  · rw [executeOther_route _ hop hobj hidx]
    exact writeRoute_gives s p _ _ h
  · obtain ⟨t, hx, hsame, hlog, -⟩ := exec_writeMask hs hop hobj hidx hf hv hidle
    obtain ⟨hmask, hroutes, hegress, hslots, hpse, hframe, hrespQ, hevents⟩ := writeMask_leaves rfl rfl ⟨hsame⟩
    refine ⟨t, hx, hmask, hroutes, hegress, hslots, hpse, hframe, hrespQ, ?_⟩
    rw [hevents]
    rw [answersWith_frame] at hlog
    exact hlog.of_same rfl rfl rfl
  · rw [executeOther_domainSlot _ hop hobj hidx]
    exact writeDomainSlot_gives s i _
  · rw [executeOther_domainEntry _ hop hobj hidx]
    exact writeDomainEntry_gives s i b _ _
  · rw [executeOther_root _ hop hobj hidx]
    exact writeRoot_gives s p _ _ (root_settings_of_passes hop hobj hs.2.2.2)

end Sys2Proof.Machine
end
